-- ==== Sys2Proof/Word.lean ====
section
/-! DEFINITION. The data of the core: bytes, words, blocks, keys, and the two indexed stores
(00_scope.md rules R10, R11, R13). A word is four bytes in order and never an integer (R11); a block (a
state, a round key) is its four columns (R13); a key is its eight words (42_key_schedule.md rule R151).
No length is ever wrong in these types: a byte sequence of any length is a `List Byte`. -/

namespace Sys2Proof

/-- A byte, bit 0 least significant (R10). -/
abbrev Byte := BitVec 8

/-- A word: a byte sequence of length 4, first byte `b0` (R11). A column of the state is a word. -/
structure Word where
  b0 : Byte
  b1 : Byte
  b2 : Byte
  b3 : Byte
deriving DecidableEq, Repr, Inhabited

/-- A block, a state or a round key: 16 bytes, held as columns 0..3 (R11, R13). -/
structure Block where
  c0 : Word
  c1 : Word
  c2 : Word
  c3 : Word
deriving DecidableEq, Repr, Inhabited

/-- A key: 32 bytes, held as words 0..7 (R11). -/
structure Key where
  w0 : Word
  w1 : Word
  w2 : Word
  w3 : Word
  w4 : Word
  w5 : Word
  w6 : Word
  w7 : Word
deriving DecidableEq, Repr, Inhabited

def Word.zero : Word := ⟨0, 0, 0, 0⟩

def Block.zero : Block := ⟨.zero, .zero, .zero, .zero⟩

def Key.zero : Key := ⟨.zero, .zero, .zero, .zero, .zero, .zero, .zero, .zero⟩

/-- The round-key word expansion buffer `W[0..59]` (10_state.md rule R22). -/
abbrev WordBuffer := Vector Word 60

/-- The round-key store `RK[0..14]` (10_state.md rule R23). -/
abbrev RoundKeys := Vector Block 15

/-- A command, response or event frame: the byte sequence of 30_encoding.md rules R81, R92, R94. -/
abbrev Frame := List Byte

end Sys2Proof
end

