-- ==== Sys2Proof/Syntax.lean ====
section
/-! DEFINITION. The 14 operations (00_scope.md rule R3) and the abstract command record
`(op, obs, A, B)` (30_encoding.md rule R80): one constructor of `Instr` for each row of the opcode table.
The operands are byte sequences whose lengths are part of the command, right or wrong (R80); the observer
bit is a field of the two operations that may carry it (R83). -/

namespace Sys2Proof

/-- The operations, in the order of the opcode table (30_encoding.md rule R86). `OPREG` holds one (R25). -/
inductive Op where
  | xtime
  | gfmul
  | subbyte
  | invsubbyte
  | expandkey
  | subbytes
  | invsubbytes
  | shiftrows
  | invshiftrows
  | mixcolumns
  | invmixcolumns
  | addroundkey
  | encrypt
  | decrypt
deriving DecidableEq, Repr, Inhabited

/-- A command that decodes: an operation with its operands `a` (block side) and `b` (key side). -/
inductive Instr where
  | xtime (a b : List Byte)
  | gfmul (a b : List Byte)
  | subbyte (a b : List Byte)
  | invsubbyte (a b : List Byte)
  | expandkey (a b : List Byte)
  | subbytes (a b : List Byte)
  | invsubbytes (a b : List Byte)
  | shiftrows (a b : List Byte)
  | invshiftrows (a b : List Byte)
  | mixcolumns (a b : List Byte)
  | invmixcolumns (a b : List Byte)
  | addroundkey (a b : List Byte)
  | encrypt (obs : Bool) (a b : List Byte)
  | decrypt (obs : Bool) (a b : List Byte)
deriving DecidableEq, Repr

/-- The operation of a command. -/
def Instr.op : Instr → Op
  | .xtime _ _ => .xtime
  | .gfmul _ _ => .gfmul
  | .subbyte _ _ => .subbyte
  | .invsubbyte _ _ => .invsubbyte
  | .expandkey _ _ => .expandkey
  | .subbytes _ _ => .subbytes
  | .invsubbytes _ _ => .invsubbytes
  | .shiftrows _ _ => .shiftrows
  | .invshiftrows _ _ => .invshiftrows
  | .mixcolumns _ _ => .mixcolumns
  | .invmixcolumns _ _ => .invmixcolumns
  | .addroundkey _ _ => .addroundkey
  | .encrypt _ _ _ => .encrypt
  | .decrypt _ _ _ => .decrypt

/-- Operand `A`, the block side. -/
def Instr.opA : Instr → List Byte
  | .xtime a _ => a
  | .gfmul a _ => a
  | .subbyte a _ => a
  | .invsubbyte a _ => a
  | .expandkey a _ => a
  | .subbytes a _ => a
  | .invsubbytes a _ => a
  | .shiftrows a _ => a
  | .invshiftrows a _ => a
  | .mixcolumns a _ => a
  | .invmixcolumns a _ => a
  | .addroundkey a _ => a
  | .encrypt _ a _ => a
  | .decrypt _ a _ => a

/-- Operand `B`, the key side. -/
def Instr.opB : Instr → List Byte
  | .xtime _ b => b
  | .gfmul _ b => b
  | .subbyte _ b => b
  | .invsubbyte _ b => b
  | .expandkey _ b => b
  | .subbytes _ b => b
  | .invsubbytes _ b => b
  | .shiftrows _ b => b
  | .invshiftrows _ b => b
  | .mixcolumns _ b => b
  | .invmixcolumns _ b => b
  | .addroundkey _ b => b
  | .encrypt _ _ b => b
  | .decrypt _ _ b => b

/-- The observer bit: 0 on the twelve operations that take no observer (R80, R83). -/
def Instr.obs : Instr → Bool
  | .xtime _ _ => false
  | .gfmul _ _ => false
  | .subbyte _ _ => false
  | .invsubbyte _ _ => false
  | .expandkey _ _ => false
  | .subbytes _ _ => false
  | .invsubbytes _ _ => false
  | .shiftrows _ _ => false
  | .invshiftrows _ _ => false
  | .mixcolumns _ _ => false
  | .invmixcolumns _ _ => false
  | .addroundkey _ _ => false
  | .encrypt o _ _ => o
  | .decrypt o _ _ => o

end Sys2Proof
end

