-- ==== Sys2Proof/WellFormed.lean ====
section
/-! DEFINITION. Which commands a frame can carry: each operand has 0 to 255 bytes, because `BLEN` and `KLEN`
are 8 bits wide (30_encoding.md rules R81, R9). A length that differs from rule R84 is well-formed: it
decodes and is then answered by the length checks of rule R90. -/

namespace Sys2Proof

/-- Operand `A` fits its length field `BLEN` (R81). -/
abbrev Instr.FitsBlen (i : Instr) : Prop := i.opA.length ≤ 255

/-- Operand `B` fits its length field `KLEN` (R81). -/
abbrev Instr.FitsKlen (i : Instr) : Prop := i.opB.length ≤ 255

/-- A frame can carry the command. -/
abbrev Instr.WellFormed (i : Instr) : Prop := i.FitsBlen ∧ i.FitsKlen

end Sys2Proof
end

