-- ==== Sys2Proof/Decode.lean ====
section
/-! DEFINITION. The decoder and the encoder of command frames (30_encoding.md rules R81-R90), both from the
same opcode table. The decoder is total on byte sequences: it answers a command or rejects by name. -/

namespace Sys2Proof

/-- Why a byte sequence is no command. -/
inductive DecodeReject where
  /-- Fewer than the four header bytes: no frame at all (R81, U4). -/
  | shortHeader
  /-- The payload is shorter or longer than `BLEN + KLEN`: such a frame "does not exist at this level"
  (R81, U4). -/
  | payloadLength
  /-- The header word matches no row of the opcode table (R87): the core answers `IllegalCommand`. -/
  | illegalCommand
deriving DecidableEq, Repr

/-- The opcode byte `OP` of an operation (R86). -/
def Op.code : Op → Byte
  | .xtime => 0x01
  | .gfmul => 0x02
  | .subbyte => 0x10
  | .invsubbyte => 0x11
  | .expandkey => 0x20
  | .subbytes => 0x30
  | .invsubbytes => 0x31
  | .shiftrows => 0x32
  | .invshiftrows => 0x33
  | .mixcolumns => 0x34
  | .invmixcolumns => 0x35
  | .addroundkey => 0x36
  | .encrypt => 0x40
  | .decrypt => 0x41

/-- The mnemonic of an operation (R86). -/
def Op.mnemonic : Op → String
  | .xtime => "XTIME"
  | .gfmul => "GFMUL"
  | .subbyte => "SUBBYTE"
  | .invsubbyte => "INVSUBBYTE"
  | .expandkey => "EXPANDKEY"
  | .subbytes => "SUBBYTES"
  | .invsubbytes => "INVSUBBYTES"
  | .shiftrows => "SHIFTROWS"
  | .invshiftrows => "INVSHIFTROWS"
  | .mixcolumns => "MIXCOLUMNS"
  | .invmixcolumns => "INVMIXCOLUMNS"
  | .addroundkey => "ADDROUNDKEY"
  | .encrypt => "ENCRYPT"
  | .decrypt => "DECRYPT"

/-- The header word `H`: the first four bytes, `F[0]` most significant (R82, 20_memory.md rule R57). -/
def headerWord (op flags blen klen : Byte) : BitVec 32 := op ++ flags ++ blen ++ klen

/-- `H[16]`, the observer bit (R82). -/
def headerObs (h : BitVec 32) : Bool := h.getLsbD 16

/-- `H[15:8]`, the length of operand `A` (R82). -/
def headerBlen (h : BitVec 32) : Nat := (h.extractLsb' 8 8).toNat

/-- `H[7:0]`, the length of operand `B` (R82). -/
def headerKlen (h : BitVec 32) : Nat := (h.extractLsb' 0 8).toNat

/-- A row of the opcode table: the header words `H` with `H & mask = bits` are the operation's (R86). -/
structure OpcodeRow where
  op   : Op
  mask : BitVec 32
  bits : BitVec 32
deriving DecidableEq, Repr

/-- The opcode table (R86). The masks cover `OP` and `RSV`, and `OBS` too for the twelve operations that
take no observer. -/
def opcodeTable : List OpcodeRow :=
  [ ⟨.xtime, 0xFFFF0000, 0x01000000⟩,
    ⟨.gfmul, 0xFFFF0000, 0x02000000⟩,
    ⟨.subbyte, 0xFFFF0000, 0x10000000⟩,
    ⟨.invsubbyte, 0xFFFF0000, 0x11000000⟩,
    ⟨.expandkey, 0xFFFF0000, 0x20000000⟩,
    ⟨.subbytes, 0xFFFF0000, 0x30000000⟩,
    ⟨.invsubbytes, 0xFFFF0000, 0x31000000⟩ ] ++
  [ ⟨.shiftrows, 0xFFFF0000, 0x32000000⟩,
    ⟨.invshiftrows, 0xFFFF0000, 0x33000000⟩,
    ⟨.mixcolumns, 0xFFFF0000, 0x34000000⟩,
    ⟨.invmixcolumns, 0xFFFF0000, 0x35000000⟩,
    ⟨.addroundkey, 0xFFFF0000, 0x36000000⟩,
    ⟨.encrypt, 0xFFFE0000, 0x40000000⟩,
    ⟨.decrypt, 0xFFFE0000, 0x41000000⟩ ]

/-- The header word matches a row (R86). -/
def OpcodeRow.selects (r : OpcodeRow) (h : BitVec 32) : Bool := h &&& r.mask == r.bits

/-- The operation of a header word; none is an illegal encoding (R87, R88 step 2). -/
def headerOp (h : BitVec 32) : Option Op := (opcodeTable.find? (·.selects h)).map (·.op)

/-- The command of an operation, its observer bit and its operands (R88 step 3). The bit is used only by
the two operations whose mask leaves it free. -/
def Instr.build (op : Op) (obs : Bool) (a b : List Byte) : Instr :=
  match op with
  | .xtime => .xtime a b
  | .gfmul => .gfmul a b
  | .subbyte => .subbyte a b
  | .invsubbyte => .invsubbyte a b
  | .expandkey => .expandkey a b
  | .subbytes => .subbytes a b
  | .invsubbytes => .invsubbytes a b
  | .shiftrows => .shiftrows a b
  | .invshiftrows => .invshiftrows a b
  | .mixcolumns => .mixcolumns a b
  | .invmixcolumns => .invmixcolumns a b
  | .addroundkey => .addroundkey a b
  | .encrypt => .encrypt obs a b
  | .decrypt => .decrypt obs a b

/-- The decoder (R88): the frame is complete (R81, R89), its header word selects a row, and the payload is
cut at `BLEN`. The length checks of rule R90 are the operation's, not the decoder's (R86). -/
def decode (f : Frame) : Except DecodeReject Instr :=
  match f with
  | op :: flags :: blen :: klen :: payload =>
    let h := headerWord op flags blen klen
    if payload.length = headerBlen h + headerKlen h then
      match headerOp h with
      | some o => .ok (Instr.build o (headerObs h) (payload.take (headerBlen h)) (payload.drop (headerBlen h)))
      | none => .error .illegalCommand
    else .error .payloadLength
  | _ => .error .shortHeader

/-- The `FLAGS` byte of a command: bit 0 is `OBS`, the reserved bits are 0 (R81, R83). -/
def Instr.flags (i : Instr) : Byte := if i.obs then 0x01 else 0x00

/-- The encoder: the frame of a well-formed command (R81). -/
def encode (i : Instr) : Frame :=
  i.op.code :: i.flags :: BitVec.ofNat 8 i.opA.length :: BitVec.ofNat 8 i.opB.length :: (i.opA ++ i.opB)

/-- Byte `k` of a frame laid out from an opcode-table number: the table's 32-bit words in order, each most
significant byte first (20_memory.md rule R57). -/
def tableByte (w k : Nat) : Byte := BitVec.ofNat 8 (w >>> (32 * (k / 4) + (24 - 8 * (k % 4))))

/-- The complete frame whose first `nbits` bits are `w`, numbered as the opcode table numbers them; every
bit above is 0, up to the length `4 + BLEN + KLEN` its header gives (R89). -/
def tableFrame (nbits w : Nat) : Frame :=
  let v := w % 2 ^ nbits
  (List.range (4 + (tableByte v 2).toNat + (tableByte v 3).toNat)).map (tableByte v)

/-- The command the decoder reads from an opcode-table number. -/
def decodeTableWord (nbits w : Nat) : Option Instr :=
  match decode (tableFrame nbits w) with
  | .ok i => some i
  | .error _ => none

end Sys2Proof
end

