-- ==== Sys2Proof/Machine/Flags.lean ====
section
/-! DEFINITION. The hardware has no flags, condition codes or predicates (10_state.md rule R29): the outcome
of a command is the status byte of its response. This file holds what stands in their place: the errors
(60_exceptions.md rule R260), the status codes (30_encoding.md rule R93), and the two output frames
(R92, R94). -/

namespace Sys2Proof.Machine

/-- The errors the core can raise: the complete list (R260). -/
inductive CommandError where
  /-- The key operand is not exactly 32 bytes (R263). -/
  | invalidKeyLength
  /-- The block operand of a cipher command is not exactly 16 bytes (R264). -/
  | invalidBlockLength
  /-- The header word matches no row of the opcode table (R265). -/
  | illegalCommand
  /-- An operand of another operation, or `A` of `EXPANDKEY`, has the wrong length (R266). -/
  | invalidOperandLength
deriving DecidableEq, Repr

/-- How a command ended. -/
inductive Status where
  | ok
  | error (e : CommandError)
deriving DecidableEq, Repr

/-- The status code of an error (R93, R260). -/
def CommandError.code : CommandError → Byte
  | .invalidKeyLength => 0x01
  | .invalidBlockLength => 0x02
  | .illegalCommand => 0x80
  | .invalidOperandLength => 0x81

/-- The status byte `STATUS` (R93). -/
def Status.code : Status → Byte
  | .ok => 0x00
  | .error e => e.code

/-- The status code reserved for `InvalidHexString`, an error of the host's codec: never produced by the
core (R93, R268). -/
def hexStringCode : Byte := 0x03

/-- The response frame `STATUS RLEN X` (R92). -/
def responseFrame (st : Status) (x : List Byte) : Frame := st.code :: BitVec.ofNat 8 x.length :: x

/-- The observer event frame: the round index, then the 16 state bytes (R94). -/
def eventFrame (n : Nat) (x : List Byte) : Frame := BitVec.ofNat 8 n :: x

end Sys2Proof.Machine
end

