-- ==== Sys2Proof/Machine/Layout.lean ====
section
/-! DEFINITION. The byte orders of the core (20_memory.md rules R54-R57, 00_scope.md rule R13): bytes of a
word, rows and columns of a state, and byte sequences to and from words, blocks and keys. -/

namespace Sys2Proof

/-! Words -/

/-- Byte `r` of a word; of a column, the byte of row `r`. -/
def Word.get (x : Word) (r : Fin 4) : Byte :=
  match r with
  | 0 => x.b0
  | 1 => x.b1
  | 2 => x.b2
  | 3 => x.b3

def Word.ofFn (f : Fin 4 → Byte) : Word := ⟨f 0, f 1, f 2, f 3⟩

def Word.map (f : Byte → Byte) (x : Word) : Word := ⟨f x.b0, f x.b1, f x.b2, f x.b3⟩

/-- Byte-wise exclusive OR. -/
def Word.xor (x y : Word) : Word := ⟨x.b0 ^^^ y.b0, x.b1 ^^^ y.b1, x.b2 ^^^ y.b2, x.b3 ^^^ y.b3⟩

def Word.toList (x : Word) : List Byte := [x.b0, x.b1, x.b2, x.b3]

/-- The word at byte `offset` of a byte sequence, first byte lowest (R55); only read where the sequence
reaches `offset + 3`. -/
def Word.ofListAt (l : List Byte) (offset : Nat) : Word :=
  ⟨l.getD offset 0, l.getD (offset + 1) 0, l.getD (offset + 2) 0, l.getD (offset + 3) 0⟩

/-! Blocks: column-major, linear index `4 * c + r` is row `r`, column `c` (R13, R56) -/

/-- Column `c`: bytes `4c .. 4c+3`. -/
def Block.col (x : Block) (c : Fin 4) : Word :=
  match c with
  | 0 => x.c0
  | 1 => x.c1
  | 2 => x.c2
  | 3 => x.c3

/-- The byte of row `r`, column `c`. -/
def Block.cell (x : Block) (r c : Fin 4) : Byte := (x.col c).get r

/-- `S[i]`, the byte at linear index `i`. -/
def Block.byte (x : Block) (i : Fin 16) : Byte :=
  x.cell ⟨i.val % 4, Nat.mod_lt _ (by decide)⟩ ⟨i.val / 4, by omega⟩

/-- The block whose byte of row `r`, column `c` is `f r c`: one parallel group (10_state.md rule R35). -/
def Block.ofFn (f : (r c : Fin 4) → Byte) : Block :=
  ⟨.ofFn (f · 0), .ofFn (f · 1), .ofFn (f · 2), .ofFn (f · 3)⟩

def Block.map (f : Byte → Byte) (x : Block) : Block := ⟨x.c0.map f, x.c1.map f, x.c2.map f, x.c3.map f⟩

/-- The same function on each column. -/
def Block.mapColumns (f : Word → Word) (x : Block) : Block := ⟨f x.c0, f x.c1, f x.c2, f x.c3⟩

/-- Byte-wise exclusive OR. -/
def Block.xor (x y : Block) : Block := ⟨x.c0.xor y.c0, x.c1.xor y.c1, x.c2.xor y.c2, x.c3.xor y.c3⟩

/-- The 16 bytes in linear order (R55 d). -/
def Block.toList (x : Block) : List Byte := x.c0.toList ++ x.c1.toList ++ x.c2.toList ++ x.c3.toList

/-- A block operand: state byte `i` is operand byte `i` (R55 d); only read on 16-byte sequences. -/
def Block.ofList (l : List Byte) : Block :=
  ⟨.ofListAt l 0, .ofListAt l 4, .ofListAt l 8, .ofListAt l 12⟩

/-! Keys: word `i` is key bytes `4i .. 4i+3` (R55 a) -/

def Key.toList (k : Key) : List Byte :=
  k.w0.toList ++ k.w1.toList ++ k.w2.toList ++ k.w3.toList ++
    (k.w4.toList ++ k.w5.toList ++ k.w6.toList ++ k.w7.toList)

/-- A key operand: key byte `i` is operand byte `i` (30_encoding.md rule R85); only read on 32-byte
sequences. -/
def Key.ofList (l : List Byte) : Key :=
  ⟨.ofListAt l 0, .ofListAt l 4, .ofListAt l 8, .ofListAt l 12,
    .ofListAt l 16, .ofListAt l 20, .ofListAt l 24, .ofListAt l 28⟩

/-! The indexed stores -/

/-- `W[i]` (20_memory.md rule R53); no index outside 0..59 is formed. -/
def wordAt (w : WordBuffer) (i : Nat) : Word := w[i]?.getD Word.zero

/-- `RK[k]` (10_state.md rule R23); no index outside 0..14 is formed. -/
def roundKey (rk : RoundKeys) (k : Nat) : Block := rk[k]?.getD Block.zero

/-- `RK[0] ++ RK[1] ++ ... ++ RK[14]`, 240 bytes (42_key_schedule.md rule R156). -/
def roundKeyBytes (rk : RoundKeys) : List Byte := rk.toList.flatMap Block.toList

/-- The packing of a byte sequence onto a bus: byte 0 most significant (R57). -/
def packBytes (l : List Byte) : Nat := l.foldl (fun n b => 256 * n + b.toNat) 0

/-- The `n` bytes of a bus of `8n` bits, byte 0 most significant (R57). -/
def unpackBytes : (n : Nat) → (v : Nat) → List Byte
  | 0, _ => []
  | n + 1, v => BitVec.ofNat 8 (v >>> (8 * n)) :: unpackBytes n v

end Sys2Proof
end

