-- ==== Sys2Proof/Machine/Operands.lean ====
section
/-! DEFINITION. The operand forms: the lengths each operation requires (30_encoding.md rule R84), the length
checks in their order (R90), and how operands are taken from the frame (R85). There are no immediates, no
extension and no scaling (R85). -/

namespace Sys2Proof.Machine

/-- `len(A)` the operation requires (R84). -/
def lenA : Op → Nat
  | .xtime => 1
  | .gfmul => 2
  | .subbyte => 1
  | .invsubbyte => 1
  | .expandkey => 0
  | .subbytes => 16
  | .invsubbytes => 16
  | .shiftrows => 16
  | .invshiftrows => 16
  | .mixcolumns => 16
  | .invmixcolumns => 16
  | .addroundkey => 16
  | .encrypt => 16
  | .decrypt => 16

/-- `len(B)` the operation requires (R84). -/
def lenB : Op → Nat
  | .xtime => 0
  | .gfmul => 0
  | .subbyte => 0
  | .invsubbyte => 0
  | .expandkey => 32
  | .subbytes => 0
  | .invsubbytes => 0
  | .shiftrows => 0
  | .invshiftrows => 0
  | .mixcolumns => 0
  | .invmixcolumns => 0
  | .addroundkey => 16
  | .encrypt => 32
  | .decrypt => 32

/-- The error of a wrong `len(A)` (R90 check 1). -/
def lenErrorA : Op → CommandError
  | .encrypt => .invalidBlockLength
  | .decrypt => .invalidBlockLength
  | _ => .invalidOperandLength

/-- The error of a wrong `len(B)` (R90 check 2). -/
def lenErrorB : Op → CommandError
  | .encrypt => .invalidKeyLength
  | .decrypt => .invalidKeyLength
  | .expandkey => .invalidKeyLength
  | _ => .invalidOperandLength

/-- The length checks, `A` before `B`; the first that fails decides the error (R90, R267). -/
def checkLengths (op : Op) (a b : List Byte) : Option CommandError :=
  if a.length ≠ lenA op then some (lenErrorA op)
  else if b.length ≠ lenB op then some (lenErrorB op)
  else none

/-- `A[i]`, for an operand that has passed its length check (R85). -/
def operandByte (a : List Byte) (i : Nat) : Byte := a.getD i 0

end Sys2Proof.Machine
end

