-- ==== Sys2Proof/Config.lean ====
section
/-! DEFINITION. What one implementation fixes and the spec leaves open. The parameters of 00_scope.md
rule R8 (16, 32, `Nk = 8`, `Nr = 14`, 15, 60) are "not configurable", so they stand as numerals where they
are used. Left open are `RCON0` (rule R132, D17), the contents of the working registers after a reset
(rule R300, U3) and `N_INST` (D19; a system is a list of instances, Machine/System.lean). -/

namespace Sys2Proof

/-- `RCON[0]`, the open parameter `RCON0`: no rule reads it (41_substitution_tables.md rule R132). Log 6. -/
opaque Config.rcon0 : Byte

/-- The working registers that reset leaves unspecified (10_state.md rule R33): the type of the free value
below. They are fields of `Machine.State`; this record only carries them to and from it. -/
structure WorkRegs where
  sreg   : Block
  keyreg : Key
  w      : WordBuffer
  rk     : RoundKeys
  opreg  : Op
  obsen  : Bool
deriving DecidableEq, Repr, Inhabited

/-- FREE VALUE. What the working registers hold after the `draw`-th reset, given what they held before it:
"the working registers `S`, `KEYREG`, `W`, `RK`, `OPREG`, `OBSEN` become unspecified"
(70_reset_and_hazards.md rule R300). It takes the old contents because erasure is not promised (U14): no
claim that reset clears a key can be proved. Log 5. -/
opaque Config.afterReset : Nat → WorkRegs → WorkRegs

end Sys2Proof
end

