-- ==== Sys2Proof/Machine/State.lean ====
section
/-! DEFINITION. The state of one core instance (10_state.md), the reasons a step can stop, and the state
after reset. State is plain data. There is no byte-addressed memory: the core has no data memory, no
instruction memory and no address bus (20_memory.md rules R50, R60, R65; log 1). -/

namespace Sys2Proof.Machine

/-- `PHASE`: no command in flight, or a cipher command between its acceptance and its response (R27). -/
inductive Phase where
  | idle
  | run
deriving DecidableEq, Repr

/-- An output of the core: a frame and the channel it was appended to (R28). -/
inductive Output where
  /-- An event frame, appended to `OBS`. -/
  | event (f : Frame)
  /-- A response frame, appended to `RSP`. -/
  | response (f : Frame)
deriving DecidableEq, Repr

/-- The frame, when the output is on `RSP`. -/
def Output.onRsp : Output → Option Frame
  | .event _ => none
  | .response f => some f

/-- The frame, when the output is on `OBS`. -/
def Output.onObs : Output → Option Frame
  | .event f => some f
  | .response _ => none

/-- When the asynchronous reset input acts, seen at the channels (70_reset_and_hazards.md rules R300, R302;
log 4). -/
inductive ResetMoment where
  /-- Before the next step does anything. -/
  | beforeStep
  /-- In a STAGE step, after its event and before its response; in `IDLE`, as `beforeStep`. -/
  | afterEvent
deriving DecidableEq, Repr

/-- One core instance. -/
structure State where
  /-- `PHASE` (R27). -/
  phase      : Phase
  /-- `RND`, the stage counter: the next stage to execute (R26). -/
  rnd        : BitVec 4
  /-- `OPREG`, the operation of the command in flight (R25). -/
  opreg      : Op
  /-- `OBSEN`, whether the observer was requested for it (R25). -/
  obsen      : Bool
  /-- `S[0..15]`, the state register (R20). -/
  sreg       : Block
  /-- `KEYREG[0..31]`, the key register (R21). -/
  keyreg     : Key
  /-- `W[0..59]`, the round-key word expansion buffer (R22). -/
  w          : WordBuffer
  /-- `RK[0..14]`, the round-key store (R23). -/
  rk         : RoundKeys
  /-- The frames of `CMD` the core has taken, oldest first (R28). -/
  cmdTaken   : List Frame
  /-- The frames of `CMD` not yet taken, the next one first (R28, R311). -/
  cmdPending : List Frame
  /-- The appends to `RSP` and `OBS`, oldest first, in the order in which they happen (R28; 44_block_cipher.md
  rule R245, 20_memory.md rule R62). The two histories are its parts `rsp` and `obs`. -/
  out        : List Output
  /-- The reset input: none while it is not applied, else the moment at which it acts, not yet acted on
  (70_reset_and_hazards.md rule R300; log 4). -/
  rst        : Option ResetMoment
  /-- The model's own counter, not the spec's: how many resets the core has acted on, the index of the free
  values the working registers then take (log 5). -/
  resetDraws : Nat
deriving DecidableEq, Repr

/-- Why the machine stops with a fault. -/
inductive Fault where
  /-- Raised by a step that would run a stage when `PHASE = RUN` and `RND = 15`, a value that "never occurs" (R26): no stage
  15 exists (44_block_cipher.md rule R227). SAFE: no run reaches it. Log 12. -/
  | stageOutOfRange
deriving DecidableEq, Repr

/-- Why a step has no meaning. -/
inductive Refusal where
  /-- Raised by `exec` for an instruction that has no meaning yet. SAFE. No arm answers it. -/
  | notModelled (mnemonic : String)
  /-- Raised by `step` when the next frame of `CMD` is shorter than a header, or shorter or longer than its
  header says: such a frame "does not exist at this level" (30_encoding.md rule R81, U4). SAFE. Log 8. -/
  | malformedFrame
deriving DecidableEq, Repr

/-- The whole `CMD` history, oldest first (R28). -/
def State.cmdHistory (s : State) : List Frame := s.cmdTaken ++ s.cmdPending

/-- The history of `RSP`, oldest first (R28). -/
def State.rsp (s : State) : List Frame := s.out.filterMap Output.onRsp

/-- The history of `OBS`, oldest first (R28). -/
def State.obs (s : State) : List Frame := s.out.filterMap Output.onObs

/-- The working registers that a reset leaves unspecified (R33). -/
def State.workRegs (s : State) : WorkRegs :=
  { sreg := s.sreg, keyreg := s.keyreg, w := s.w, rk := s.rk, opreg := s.opreg, obsen := s.obsen }

def State.withWorkRegs (s : State) (r : WorkRegs) : State :=
  { s with sreg := r.sreg, keyreg := r.keyreg, w := r.w, rk := r.rk, opreg := r.opreg, obsen := r.obsen }

/-- The state after reset: `PHASE = IDLE`, `RND = 0`, empty channel histories (R33). The spec leaves the
working registers "unspecified"; the values here are the model's choice (logs 2, 3). -/
def State.reset : State :=
  { phase := .idle
    rnd := 0
    opreg := .xtime
    obsen := false
    sreg := Block.zero
    keyreg := Key.zero
    w := Vector.replicate 60 Word.zero
    rk := Vector.replicate 15 Block.zero
    cmdTaken := []
    cmdPending := []
    out := []
    rst := none
    resetDraws := 0 }

end Sys2Proof.Machine
end

