-- ==== Sys2Proof/Machine/Ops.lean ====
section
/-! DEFINITION. The named operations over the registers and the channels: appending to `RSP` and `OBS`,
taking a frame from `CMD`, raising an error, acting on reset, what the host can do, and the frame of every
command step. -/

namespace Sys2Proof.Machine

/-- `emit RSP(st, X)`: append the response frame (30_encoding.md rule R92). -/
def State.emitRsp (s : State) (st : Status) (x : List Byte) : State :=
  { s with out := s.out ++ [.response (responseFrame st x)] }

/-- `emit OBS(n, X)`: append the event frame with a copy of the state (44_block_cipher.md rule R240). -/
def State.emitObs (s : State) (n : Nat) (x : Block) : State :=
  { s with out := s.out ++ [.event (eventFrame n x.toList)] }

/-- `raise E`, the hardware's trap entry and exit in one (60_exceptions.md rules R262, R270, R271): the error
response is appended to `RSP` with no result bytes, and nothing else changes. Nothing is saved, no handler
runs, and there is no return operation. -/
def raise (e : CommandError) (s : State) : Host.Outcome State Fault Refusal :=
  .next (s.emitRsp (.error e) [])

/-- The frame at the head of `CMD`, if any (R226, R228). -/
def State.nextFrame (s : State) : Option Frame := s.cmdPending.head?

/-- "The core takes the frame" (R226, R228): it moves from the pending to the taken part of `CMD`. -/
def State.takeFrame (s : State) : State :=
  match s.cmdPending with
  | [] => s
  | f :: rest => { s with cmdTaken := s.cmdTaken ++ [f], cmdPending := rest }

/-- Acting on reset (70_reset_and_hazards.md rules R300, R302): `PHASE = IDLE`, `RND = 0`, the working
registers become free values, the channel histories are not altered. A command in flight is abandoned. -/
def State.applyReset (s : State) : State :=
  { s.withWorkRegs (Config.afterReset s.resetDraws s.workRegs) with
    phase := .idle
    rnd := 0
    rst := none
    resetDraws := s.resetDraws + 1 }

/-- The host presents a frame: it is appended to `CMD` (10_state.md rule R28, R311). -/
def State.hostPresent (s : State) (f : Frame) : State := { s with cmdPending := s.cmdPending ++ [f] }

/-- The host applies reset (R300); the next step acts on it, at the moment `m`. -/
def State.hostReset (s : State) (m : ResetMoment) : State := { s with rst := some m }

/-- The frame of a command step, for a command that decoded to operation `op`: the length checks of
30_encoding.md rule R90, in order, before any register is written; then `body`. A command is accepted in
`PHASE = IDLE` only (10_state.md rule R27, R311): in `RUN` it waits and nothing of it happens (log 11). -/
def command (op : Op) (a b : List Byte) (body : State → State) (s : State) :
    Host.Outcome State Fault Refusal :=
  match s.phase with
  | .run => .next s
  | .idle =>
    match checkLengths op a b with
    | some e => raise e s
    | none => .next (body s)

end Sys2Proof.Machine
end

