-- ==== Sys2Proof/Machine/KeySchedule.lean ====
section
/-! DEFINITION. Unit 3, the key schedule or round-key expander (42_key_schedule.md): the buffer `W` is filled
in place, word by word, and sliced into the 15 round keys; and the command `EXPANDKEY`. -/

namespace Sys2Proof.Machine

/-- Rotate left by one byte, toward index 0 (R152). -/
def rotWord (t : Word) : Word := ⟨t.b1, t.b2, t.b3, t.b0⟩

/-- Substitute each byte via the forward S-box (R153). -/
def subWord (t : Word) : Word := t.map subByte

/-- XOR a round constant into the first byte (R154 step 2). -/
def xorFirst (t : Word) (c : Byte) : Word := { t with b0 := t.b0 ^^^ c }

/-- Loading the key: `W[0..7]` are the key's words (R151). -/
def loadKey (w : WordBuffer) (k : Key) : WordBuffer :=
  let lower := (((w.setIfInBounds 0 k.w0).setIfInBounds 1 k.w1).setIfInBounds 2 k.w2).setIfInBounds 3 k.w3
  (((lower.setIfInBounds 4 k.w4).setIfInBounds 5 k.w5).setIfInBounds 6 k.w6).setIfInBounds 7 k.w7

/-- `temp` of word `i`: the previous word, substituted, rotated and XORed as `i mod 8` says (R154 steps 1-4). -/
def scheduleTemp (w : WordBuffer) (i : Nat) : Word :=
  let temp := wordAt w (i - 1)
  if i % 8 = 0 then xorFirst (subWord (rotWord temp)) (rcon (BitVec.ofNat 3 (i / 8)))
  else if i % 8 = 4 then subWord temp
  else temp

/-- `W[i] <- W[i-8] ^ temp` (R154 step 5). -/
def generateWord (w : WordBuffer) (i : Nat) : WordBuffer :=
  w.setIfInBounds i ((wordAt w (i - 8)).xor (scheduleTemp w i))

/-- `n` words from word `i` on, ascending (R154). -/
def generateWords : (n i : Nat) → WordBuffer → WordBuffer
  | 0, _, w => w
  | n + 1, i, w => generateWords n (i + 1) (generateWord w i)

/-- The expansion in the buffer `w`, whatever it held: load the key, then words 8..59 (R151, R154). -/
def fillWords (w : WordBuffer) (k : Key) : WordBuffer := generateWords 52 8 (loadKey w k)

/-- `RK[k][j] = W[4k + j div 4][j mod 4]` (R155, 20_memory.md rule R54): byte `j = 4c + r` of round key `k`. -/
def sliceRoundKey (w : WordBuffer) (k : Nat) : Block := Block.ofFn fun r c => (wordAt w (4 * k + c.val)).get r

/-- Slicing: the 15 round keys (R155). -/
def sliceRoundKeys (w : WordBuffer) : RoundKeys := ⟨⟨(List.range 15).map (sliceRoundKey w)⟩, by simp⟩

/-- `ExpandKey` as a function of the key (R150, R155). -/
def expandKey (k : Key) : RoundKeys := sliceRoundKeys (fillWords (Vector.replicate 60 Word.zero) k)

/-- `KEYREG <- key; RK <- ExpandKey(key)`, which writes `W` as well (R155, 44_block_cipher.md rule R226). -/
def State.expandInto (s : State) (k : Key) : State :=
  let w := fillWords s.w k
  { s with keyreg := k, w := w, rk := sliceRoundKeys w }

/-- EXPANDKEY (R156). -/
def execExpandkey (a b : List Byte) (s : State) : Host.Outcome State Fault Refusal :=
  command .expandkey a b (fun s =>
    let t := s.expandInto (Key.ofList b)
    t.emitRsp .ok (roundKeyBytes t.rk)) s

end Sys2Proof.Machine
end

