-- ==== Sys2Proof/Machine/Field.lean ====
section
/-! DEFINITION. Unit 1, finite-field arithmetic in GF(2^8) modulo 0x11B (40_gf_arithmetic.md): `xtime`,
`gfMul` and the commands `XTIME`, `GFMUL`. -/

namespace Sys2Proof.Machine

/-- Multiplication by 2: shift left by one bit, then XOR with 0x1B if the original high bit was set (R110). -/
def xtime (b : Byte) : Byte :=
  if b.getLsbD 7 then (b <<< 1) ^^^ 0x1B else b <<< 1

/-- `n` iterations of the multiplication: accumulate `a` when the low bit of `b` is set, double `a`, shift
`b` right (R113). -/
def gfMulLoop : (n : Nat) → (res a b : Byte) → Byte
  | 0, res, _, _ => res
  | n + 1, res, a, b =>
    gfMulLoop n (if b.getLsbD 0 then res ^^^ a else res) (xtime a) (b >>> 1)

/-- Multiplication in GF(2^8): exactly 8 iterations (R113). -/
def gfMul (a b : Byte) : Byte := gfMulLoop 8 0 a b

/-- XTIME (R111). -/
def execXtime (a b : List Byte) (s : State) : Host.Outcome State Fault Refusal :=
  command .xtime a b (fun s => s.emitRsp .ok [xtime (operandByte a 0)]) s

/-- GFMUL (R114). -/
def execGfmul (a b : List Byte) (s : State) : Host.Outcome State Fault Refusal :=
  command .gfmul a b (fun s => s.emitRsp .ok [gfMul (operandByte a 0) (operandByte a 1)]) s

end Sys2Proof.Machine
end

