-- ==== Sys2Proof/Machine/Rounds.lean ====
section
/-! DEFINITION. Unit 4, the round transformations (43_round_transformations.md): pure functions from a state
to a state (10_state.md rule R35), and the seven commands that expose them. -/

namespace Sys2Proof.Machine

/-- SubBytes: each byte via the forward S-box (R181). -/
def subBytes (x : Block) : Block := x.map subByte

/-- InvSubBytes: each byte via the inverse S-box (R182). -/
def invSubBytes (x : Block) : Block := x.map invSubByte

/-- ShiftRows: the byte of row `r`, column `(c + r) mod 4` arrives in column `c` (R183). -/
def shiftRows (x : Block) : Block := Block.ofFn fun r c => x.cell r (c + r)

/-- InvShiftRows: the byte of row `r`, column `(c - r) mod 4` arrives in column `c` (R184). -/
def invShiftRows (x : Block) : Block := Block.ofFn fun r c => x.cell r (c - r)

/-- One row of a coefficient matrix times a column (R185). -/
def dotColumn (m : Word) (x : Word) : Byte :=
  gfMul m.b0 x.b0 ^^^ gfMul m.b1 x.b1 ^^^ gfMul m.b2 x.b2 ^^^ gfMul m.b3 x.b3

/-- A matrix, listed by rows as a block's four words, times a column: row `r` of the listing gives output
byte `r` (R185, R192). -/
def mulMatrix (m : Block) (x : Word) : Word :=
  ⟨dotColumn m.c0 x, dotColumn m.c1 x, dotColumn m.c2 x, dotColumn m.c3 x⟩

/-- The rows `[[2,3,1,1],[1,2,3,1],[1,1,2,3],[3,1,1,2]]` (R185). -/
def mixMatrix : Block := ⟨⟨2, 3, 1, 1⟩, ⟨1, 2, 3, 1⟩, ⟨1, 1, 2, 3⟩, ⟨3, 1, 1, 2⟩⟩

/-- The rows `[[0e,0b,0d,09],[09,0e,0b,0d],[0d,09,0e,0b],[0b,0d,09,0e]]` (R187). -/
def invMixMatrix : Block :=
  ⟨⟨0x0e, 0x0b, 0x0d, 0x09⟩, ⟨0x09, 0x0e, 0x0b, 0x0d⟩, ⟨0x0d, 0x09, 0x0e, 0x0b⟩, ⟨0x0b, 0x0d, 0x09, 0x0e⟩⟩

/-- MixColumn on one column (R185). -/
def mixColumn (x : Word) : Word := mulMatrix mixMatrix x

/-- InvMixColumn on one column (R187). -/
def invMixColumn (x : Word) : Word := mulMatrix invMixMatrix x

/-- MixColumns (R186). -/
def mixColumns (x : Block) : Block := x.mapColumns mixColumn

/-- InvMixColumns (R188). -/
def invMixColumns (x : Block) : Block := x.mapColumns invMixColumn

/-- AddRoundKey: byte-wise XOR with a round key (R189). -/
def addRoundKey (x k : Block) : Block := x.xor k

/-- The common template (R180): load `A` into `S`, transform `S`, answer `S`. -/
def State.transform (s : State) (a : List Byte) (t : Block → Block) : State :=
  let s := { s with sreg := Block.ofList a }
  let s := { s with sreg := t s.sreg }
  s.emitRsp .ok s.sreg.toList

/-- SUBBYTES (R180, R181). -/
def execSubbytes (a b : List Byte) (s : State) : Host.Outcome State Fault Refusal :=
  command .subbytes a b (fun s => s.transform a subBytes) s

/-- INVSUBBYTES (R180, R182). -/
def execInvsubbytes (a b : List Byte) (s : State) : Host.Outcome State Fault Refusal :=
  command .invsubbytes a b (fun s => s.transform a invSubBytes) s

/-- SHIFTROWS (R180, R183). -/
def execShiftrows (a b : List Byte) (s : State) : Host.Outcome State Fault Refusal :=
  command .shiftrows a b (fun s => s.transform a shiftRows) s

/-- INVSHIFTROWS (R180, R184). -/
def execInvshiftrows (a b : List Byte) (s : State) : Host.Outcome State Fault Refusal :=
  command .invshiftrows a b (fun s => s.transform a invShiftRows) s

/-- MIXCOLUMNS (R180, R186). -/
def execMixcolumns (a b : List Byte) (s : State) : Host.Outcome State Fault Refusal :=
  command .mixcolumns a b (fun s => s.transform a mixColumns) s

/-- INVMIXCOLUMNS (R180, R188). -/
def execInvmixcolumns (a b : List Byte) (s : State) : Host.Outcome State Fault Refusal :=
  command .invmixcolumns a b (fun s => s.transform a invMixColumns) s

/-- ADDROUNDKEY (R189): the round key is operand `B`, not `RK`. -/
def execAddroundkey (a b : List Byte) (s : State) : Host.Outcome State Fault Refusal :=
  command .addroundkey a b (fun s => s.transform a (addRoundKey · (Block.ofList b))) s

end Sys2Proof.Machine
end

