-- ==== Sys2Proof/Machine/Cipher.lean ====
section
/-! DEFINITION. Unit 5, the block cipher orchestration and the round observer (44_block_cipher.md): the stage
functions, the ACCEPT step (the meaning of `ENCRYPT` and `DECRYPT`), and the STAGE step. -/

namespace Sys2Proof.Machine

/-- Encryption stage `n`, 0..14 (R221). -/
def encStage (n : Nat) (x : Block) (rk : RoundKeys) : Block :=
  if n = 0 then addRoundKey x (roundKey rk 0)
  else if n = 14 then addRoundKey (shiftRows (subBytes x)) (roundKey rk 14)
  else addRoundKey (mixColumns (shiftRows (subBytes x))) (roundKey rk n)

/-- Decryption stage `n`, 0..14: round key `14 - n` (R224). -/
def decStage (n : Nat) (x : Block) (rk : RoundKeys) : Block :=
  if n = 0 then addRoundKey x (roundKey rk 14)
  else if n = 14 then addRoundKey (invSubBytes (invShiftRows x)) (roundKey rk 0)
  else invMixColumns (addRoundKey (invSubBytes (invShiftRows x)) (roundKey rk (14 - n)))

/-- The stage function of the command in flight (R227). -/
def stageOf (op : Op) (n : Nat) (x : Block) (rk : RoundKeys) : Block :=
  if op = .encrypt then encStage n x rk else decStage n x rk

/-- Step ACCEPT, after the checks, its writes in order (R226). -/
def State.acceptCipher (s : State) (op : Op) (obs : Bool) (a b : List Byte) : State :=
  let s := { s with opreg := op, obsen := obs }
  let s := { s with sreg := Block.ofList a }
  let s := s.expandInto (Key.ofList b)
  { s with rnd := 0, phase := .run }

/-- ENCRYPT (R230): the ACCEPT step (R226); its 15 STAGE steps are `stage`. -/
def execEncrypt (obs : Bool) (a b : List Byte) (s : State) : Host.Outcome State Fault Refusal :=
  command .encrypt a b (fun s => s.acceptCipher .encrypt obs a b) s

/-- DECRYPT (R231): the ACCEPT step (R226); its 15 STAGE steps are `stage`. -/
def execDecrypt (obs : Bool) (a b : List Byte) (s : State) : Host.Outcome State Fault Refusal :=
  command .decrypt a b (fun s => s.acceptCipher .decrypt obs a b) s

/-- The transformation of stage `n` and its observer event (R227, R240). -/
def State.runStage (s : State) (n : Nat) : State :=
  let s := { s with sreg := stageOf s.opreg n s.sreg s.rk }
  if s.obsen then s.emitObs n s.sreg else s

/-- The end of stage `n`: the next stage, or after stage 14 the response (R227). `RND` keeps 14 then (log 13). -/
def State.endStage (s : State) (n : Nat) : State :=
  if n < 14 then { s with rnd := BitVec.ofNat 4 (n + 1) }
  else { s.emitRsp .ok s.sreg.toList with phase := .idle }

/-- Stage `n = RND` and then `finish` (R227). `RND = 15` "never occurs" (R26; log 12). -/
def stageThen (finish : State → Nat → State) (s : State) : Host.Outcome State Fault Refusal :=
  let n := s.rnd.toNat
  if n ≤ 14 then .next (finish (s.runStage n) n) else .fault .stageOutOfRange

/-- Step STAGE (R227). -/
def stage (s : State) : Host.Outcome State Fault Refusal := stageThen State.endStage s

/-- The step that acts on the reset input (70_reset_and_hazards.md rules R300, R302). A command in flight is
abandoned, before the stage or after the stage's event, so it has emitted any number of events from 0 to 15 and
emits no response. -/
def resetStep (m : ResetMoment) (s : State) : Host.Outcome State Fault Refusal :=
  match m, s.phase with
  | .beforeStep, _ => .next s.applyReset
  | .afterEvent, .idle => .next s.applyReset
  | .afterEvent, .run => stageThen (fun s _ => s.applyReset) s

end Sys2Proof.Machine
end

