-- ==== Sys2Proof/Machine/Dispatch.lean ====
section
/-! DEFINITION. One arm for each operation of the opcode table (30_encoding.md rule R86). -/

namespace Sys2Proof.Machine

-- The command is at the head of CMD; step has taken its frame.
def exec (i : Instr) (s : State) : Host.Outcome State Fault Refusal :=
  match i with
  | .xtime a b => Sys2Proof.Machine.execXtime a b s
  | .gfmul a b => Sys2Proof.Machine.execGfmul a b s
  | .subbyte a b => Sys2Proof.Machine.execSubbyte a b s
  | .invsubbyte a b => Sys2Proof.Machine.execInvsubbyte a b s
  | .expandkey a b => Sys2Proof.Machine.execExpandkey a b s
  | .subbytes a b => Sys2Proof.Machine.execSubbytes a b s
  | .invsubbytes a b => Sys2Proof.Machine.execInvsubbytes a b s
  | .shiftrows a b => Sys2Proof.Machine.execShiftrows a b s
  | .invshiftrows a b => Sys2Proof.Machine.execInvshiftrows a b s
  | .mixcolumns a b => Sys2Proof.Machine.execMixcolumns a b s
  | .invmixcolumns a b => Sys2Proof.Machine.execInvmixcolumns a b s
  | .addroundkey a b => Sys2Proof.Machine.execAddroundkey a b s
  | .encrypt obs a b => Sys2Proof.Machine.execEncrypt obs a b s
  | .decrypt obs a b => Sys2Proof.Machine.execDecrypt obs a b s

end Sys2Proof.Machine
end

