-- ==== Sys2Proof/Machine/Step.lean ====
section
/-! DEFINITION. One step of the core: reset if it is applied (70_reset_and_hazards.md rule R300); in `RUN` the
STAGE step (44_block_cipher.md rule R227); in `IDLE` the ACCEPT or SIMPLE step on the frame at the head of
`CMD` (R226, R228); else the core waits for a frame (60_exceptions.md rule R284; log 7). -/

namespace Sys2Proof.Machine

/-- Three outcomes: a next state, a fault, a refusal. An illegal frame is answered (R265), never refused. -/
def step (s : State) : Host.Outcome State Fault Refusal :=
  match s.rst with
  | some m => resetStep m s
  | none =>
    match s.phase with
    | .run => stage s
    | .idle =>
      match s.nextFrame with
      | none => .next s
      | some f =>
        match decode f with
        | .ok i => exec i s.takeFrame
        | .error .illegalCommand => raise .illegalCommand s.takeFrame
        | .error .shortHeader => .refused .malformedFrame
        | .error .payloadLength => .refused .malformedFrame

/-- The state in which the next step takes the frame of an opcode-table number: the frame is at the head of
`CMD`, the core is idle, and no reset is applied. It stands for the host presenting the frame (log 10). -/
def State.withFetchWord (s : State) (nbits w : Nat) : State :=
  { s with
    phase := .idle
    rst := none
    cmdPending := tableFrame nbits w :: s.cmdPending }

end Sys2Proof.Machine
end

