-- ==== Sys2Proof/Machine/BigStep.lean ====
section
/-! DEFINITION. The big-step description of the commands (44_block_cipher.md rules R222, R225, R228): the
cipher as one function, and the response and observer events of a whole frame. The machine's small steps do
not use it; that the two agree is rule R229, a claim. -/

namespace Sys2Proof.Machine

/-- The state after encryption stages `0..n` of plaintext `p` (R222). -/
def encState (p : Block) (rk : RoundKeys) : Nat → Block
  | 0 => encStage 0 p rk
  | n + 1 => encStage (n + 1) (encState p rk n) rk

/-- The state after decryption stages `0..n` of ciphertext `c` (R225). -/
def decState (c : Block) (rk : RoundKeys) : Nat → Block
  | 0 => decStage 0 c rk
  | n + 1 => decStage (n + 1) (decState c rk n) rk

/-- `Encrypt(P, K)` (R222). -/
def encryptBlock (p : Block) (k : Key) : Block := encState p (expandKey k) 14

/-- `Decrypt(C, K)` (R225). -/
def decryptBlock (c : Block) (k : Key) : Block := decState c (expandKey k) 14

/-- The result bytes of a command whose operands have passed their checks (R84). -/
def commandResult : Instr → List Byte
  | .xtime a _ => [xtime (operandByte a 0)]
  | .gfmul a _ => [gfMul (operandByte a 0) (operandByte a 1)]
  | .subbyte a _ => [subByte (operandByte a 0)]
  | .invsubbyte a _ => [invSubByte (operandByte a 0)]
  | .expandkey _ b => roundKeyBytes (expandKey (Key.ofList b))
  | .subbytes a _ => (subBytes (Block.ofList a)).toList
  | .invsubbytes a _ => (invSubBytes (Block.ofList a)).toList
  | .shiftrows a _ => (shiftRows (Block.ofList a)).toList
  | .invshiftrows a _ => (invShiftRows (Block.ofList a)).toList
  | .mixcolumns a _ => (mixColumns (Block.ofList a)).toList
  | .invmixcolumns a _ => (invMixColumns (Block.ofList a)).toList
  | .addroundkey a b => (addRoundKey (Block.ofList a) (Block.ofList b)).toList
  | .encrypt _ a b => (encryptBlock (Block.ofList a) (Key.ofList b)).toList
  | .decrypt _ a b => (decryptBlock (Block.ofList a) (Key.ofList b)).toList

/-- The 15 events of a cipher command, given its states by stage (R240, R241). -/
def eventFrames (states : Nat → Block) : List Frame :=
  (List.range 15).map fun n => eventFrame n (states n).toList

/-- The observer events of a command whose operands have passed their checks: 15 for a cipher command with
`OBS = 1`, none otherwise (R241). -/
def commandEvents : Instr → List Frame
  | .encrypt true a b => eventFrames (encState (Block.ofList a) (expandKey (Key.ofList b)))
  | .decrypt true a b => eventFrames (decState (Block.ofList a) (expandKey (Key.ofList b)))
  | _ => []

/-- The response to a frame (R229, R262); a malformed byte sequence has none (U4). -/
def frameResponse (f : Frame) : Frame :=
  match decode f with
  | .error .illegalCommand => responseFrame (.error .illegalCommand) []
  | .error _ => []
  | .ok i =>
    match checkLengths i.op i.opA i.opB with
    | some e => responseFrame (.error e) []
    | none => responseFrame .ok (commandResult i)

/-- The observer events of a frame (R229, R241). -/
def frameEvents (f : Frame) : List Frame :=
  match decode f with
  | .error _ => []
  | .ok i =>
    match checkLengths i.op i.opA i.opB with
    | some _ => []
    | none => commandEvents i

/-- Everything a frame makes the core append, in order: its events, then its response (R245). -/
def frameOutput (f : Frame) : List Output := (frameEvents f).map .event ++ [.response (frameResponse f)]

end Sys2Proof.Machine
end

