-- ==== Sys2Proof/Machine/System.lean ====
section
/-! DEFINITION. Several instances (60_exceptions.md rule R282): `N_INST >= 1` cores with registers, phases and
channels of their own, which share only the constant tables. Any instance may take the next step. -/

namespace Sys2Proof.Machine

/-- A system of instances, one state each. -/
abbrev System := List State

/-- Instance `k` takes one step; the others are not touched. None when there is no instance `k` or its step
answers no next state. -/
def System.stepAt (sys : System) (k : Nat) : Option System :=
  match sys[k]? with
  | none => none
  | some s =>
    match step s with
    | .next t => some (sys.set k t)
    | .fault _ => none
    | .refused _ => none

end Sys2Proof.Machine
end

