-- ==== Sys2Proof/Safety.lean ====
section
/-! DEFINITION. The terms in which claims about the core are stated: what counts as a good run (no step stops,
sequencing is legal, the channel histories are those of the big-step description), the launch premise of
70_reset_and_hazards.md rule R302, what a step may look at, and reference arithmetic that does not use the
model's own functions. -/

namespace Sys2Proof.Machine

/-! ## What the host promises -/

/-- A frame as the transport delivers it: its length is the one its header gives (30_encoding.md rules R81,
R89). -/
def frameComplete : Frame → Bool
  | _ :: _ :: blen :: klen :: payload => payload.length == blen.toNat + klen.toNat
  | _ => false

/-- Every frame the core has still to take is complete (R81, U4). -/
def State.FramesComplete (s : State) : Prop := ∀ f ∈ s.cmdPending, frameComplete f = true

/-- The launch premise "the host never resets a busy core" (R302, U5). -/
def State.HostNeverResetsBusy (s : State) : Prop := s.rst ≠ none → s.phase = .idle

/-! ## What the core keeps -/

/-- While a cipher command is in flight, `RND` is a stage 0..14 and `OPREG` a cipher operation (10_state.md
rules R25, R26). -/
def State.SequencingLegal (s : State) : Prop :=
  s.phase = .run → s.rnd.toNat ≤ 14 ∧ (s.opreg = .encrypt ∨ s.opreg = .decrypt)

/-- A response frame the core may produce: a status of rule R93 other than 0x03, `RLEN` the number of result
bytes, 1, 16 or 240 of them on success and none on an error (R92, R93). -/
def LegalResponse (f : Frame) : Prop :=
  ∃ c l x, f = c :: l :: x ∧ l.toNat = x.length ∧
    ((c = 0x00 ∧ (x.length = 1 ∨ x.length = 16 ∨ x.length = 240)) ∨
      ((c = 0x01 ∨ c = 0x02 ∨ c = 0x80 ∨ c = 0x81) ∧ x = []))

/-- An event frame the core may produce: 17 bytes, the first a round index 0..14 (R94). -/
def LegalEvent (f : Frame) : Prop := ∃ n x, f = n :: x ∧ n.toNat ≤ 14 ∧ x.length = 16

/-- An output the core may produce: a legal frame for its channel. -/
def LegalOutput : Output → Prop
  | .event f => LegalEvent f
  | .response f => LegalResponse f

/-- Both output channels hold legal frames only. -/
def State.ChannelsLegal (s : State) : Prop := ∀ o ∈ s.out, LegalOutput o

/-! ## Agreement with the big-step description (44_block_cipher.md rule R229) -/

/-- A valid cipher command: its operands have passed their checks (R90). -/
def ValidCipher (i : Instr) : Prop :=
  (i.op = .encrypt ∨ i.op = .decrypt) ∧ i.opA.length = 16 ∧ i.opB.length = 32

/-- The states after each stage of a cipher command (R222, R225). -/
def cipherState (op : Op) (x : Block) (rk : RoundKeys) : Nat → Block :=
  if op = .encrypt then encState x rk else decState x rk

/-- `S` when stage `n` is the next to execute. -/
def stateBeforeStage (op : Op) (x : Block) (rk : RoundKeys) : Nat → Block
  | 0 => x
  | n + 1 => cipherState op x rk n

/-- The registers of a cipher command in flight: `i` was accepted and the stages before `RND` are done
(R226, R227). -/
def State.InFlight (s : State) (i : Instr) : Prop :=
  ValidCipher i ∧ s.opreg = i.op ∧ s.obsen = i.obs ∧ s.keyreg = Key.ofList i.opB ∧
    s.rk = expandKey s.keyreg ∧ s.rnd.toNat ≤ 14 ∧
    s.sreg = stateBeforeStage i.op (Block.ofList i.opA) s.rk s.rnd.toNat

/-- The outputs are exactly those of the frames taken, in order: when idle, for each frame its events and then
its one response, before anything of the next; when a cipher command is in flight, so for the frames before it,
and then of its own events those of the stages done (R229, R241, R245, R317). -/
def State.HistoryAgrees (s : State) : Prop :=
  (s.phase = .idle → s.out = s.cmdTaken.flatMap frameOutput) ∧
  (s.phase = .run → ∃ before f i, s.cmdTaken = before ++ [f] ∧ decode f = .ok i ∧ s.InFlight i ∧
    s.out = before.flatMap frameOutput ++ ((frameEvents f).take s.rnd.toNat).map .event)

/-- How many steps a frame takes: 16 for a valid cipher command, 1 for any other frame (R316). -/
def frameSteps (f : Frame) : Nat :=
  match decode f with
  | .error _ => 1
  | .ok i =>
    if (i.op = .encrypt ∨ i.op = .decrypt) ∧ i.opA.length = 16 ∧ i.opB.length = 32 then 16 else 1

/-! ## What cannot be seen -/

/-- The two states show the same at the three channels, in the same order, and at the reset input, and the core
is in the same phase: what an observer outside can compare (10_state.md rule R32). -/
def State.SameChannels (s t : State) : Prop :=
  s.phase = t.phase ∧ s.rst = t.rst ∧ s.cmdTaken = t.cmdTaken ∧ s.cmdPending = t.cmdPending ∧
    s.out = t.out

/-- The frame with its observer request withdrawn, on the two operations that may carry one (R83). -/
def withoutObserver : Frame → Frame
  | op :: flags :: rest =>
    if (op = 0x40 ∨ op = 0x41) ∧ flags = 0x01 then op :: 0x00 :: rest else op :: flags :: rest
  | f => f

/-! ## The meaning of a command that is answered in one step (44_block_cipher.md rule R228) -/

/-- The whole meaning of a SIMPLE command with opcode `code`, in `PHASE = IDLE`. A wrong `len(A)` is answered
`errA`, else a wrong `len(B)` is answered `errB`, with no result bytes and no other effect; else the response
is `OK` with `result`, the registers change as `written` says, and nothing else does. A complete frame with
this opcode and any bit of `FLAGS` set is answered `IllegalCommand`. -/
def CommandMeaning (make : List Byte → List Byte → Instr) (code : Byte) (la lb : Nat) (errA errB : Byte)
    (result : List Byte → List Byte → List Byte) (written : List Byte → List Byte → State → State) : Prop :=
  (∀ (s : State) (a b : List Byte), s.phase = .idle →
    (a.length ≠ la → exec (make a b) s = .next { s with out := s.out ++ [.response [errA, 0x00]] }) ∧
    (a.length = la → b.length ≠ lb →
      exec (make a b) s = .next { s with out := s.out ++ [.response [errB, 0x00]] }) ∧
    (a.length = la → b.length = lb →
      exec (make a b) s = .next { written a b s with
        out := s.out ++ [.response (0x00 :: BitVec.ofNat 8 (result a b).length :: result a b)] })) ∧
  (∀ (s : State) (flags blen klen : Byte) (payload : List Byte) (rest : List Frame),
    s.rst = none → s.phase = .idle → flags ≠ 0x00 → payload.length = blen.toNat + klen.toNat →
    s.cmdPending = (code :: flags :: blen :: klen :: payload) :: rest →
    step s = .next { s with
      cmdTaken := s.cmdTaken ++ [code :: flags :: blen :: klen :: payload]
      cmdPending := rest
      out := s.out ++ [.response [0x80, 0x00]] })

/-- No working register is written (10_state.md rule R36). -/
def nothingWritten (_ _ : List Byte) (s : State) : State := s

/-- `S` holds the 16 result bytes (43_round_transformations.md rule R180). -/
def resultInS (result : List Byte → List Byte → List Byte) (a b : List Byte) (s : State) : State :=
  { s with sreg := Block.ofList (result a b) }

/-! ## Reference arithmetic -/

/-- The product of two polynomials over GF(2), as numbers whose bits are the coefficients. -/
def polyProduct (a b : Nat) : Nat :=
  (List.range 8).foldl (fun p i => if b.testBit i then p ^^^ (a <<< i) else p) 0

/-- The remainder modulo 0x11B of a polynomial of degree at most 14: long division, highest term first. -/
def polyReduce (p : Nat) : Nat :=
  [6, 5, 4, 3, 2, 1, 0].foldl (fun p i => if p.testBit (i + 8) then p ^^^ (0x11B <<< i) else p) p

/-- The product in GF(2^8) modulo 0x11B (40_gf_arithmetic.md rule R116). -/
def fieldProduct (a b : Byte) : Byte := BitVec.ofNat 8 (polyReduce (polyProduct a.toNat b.toNat))

/-- Output byte `i = 4c + r` of a circulant matrix whose row 0 is `m0 m1 m2 m3`, applied to column `c`: row `r`
is row 0 rotated right by `r` places (43_round_transformations.md rule R192). -/
def circulantByte (m0 m1 m2 m3 : Byte) (a : List Byte) (i : Nat) : Byte :=
  let s := fun j => a.getD (4 * (i / 4) + (i + j) % 4) 0
  fieldProduct m0 (s 0) ^^^ fieldProduct m1 (s 1) ^^^ fieldProduct m2 (s 2) ^^^ fieldProduct m3 (s 3)

/-- Bit `i` of the affine map of the S-box, with constant 0x63 (41_substitution_tables.md rule R130). -/
def affineBit (b : Byte) (i : Nat) : Bool :=
  b.getLsbD i ^^ b.getLsbD ((i + 4) % 8) ^^ b.getLsbD ((i + 5) % 8) ^^ b.getLsbD ((i + 6) % 8) ^^
    b.getLsbD ((i + 7) % 8) ^^ (0x63 : Byte).getLsbD i

end Sys2Proof.Machine
end

