-- ==== Sys2Proof/Certificates/Slice0/Obligations.lean ====
section
/-! DEFINITION. The statements for the provers, each from the numbered rules of spec/. -/

open Sys2Proof Sys2Proof.Machine

/-! ## Encoding -/

/-- Decoding the frame of any well-formed command gives it back, every operand at every value a frame admits. -/
def Obligations.DecodeOfEncodeIsTheCommand : Prop :=
  ∀ i : Instr, i.WellFormed → decode (encode i) = .ok i

/-- A frame that decodes is the encoding of what it decodes to: no bit of it is dropped, and every command has
one frame. -/
def Obligations.EncodeOfDecodeIsTheFrame : Prop :=
  ∀ (f : Frame) (i : Instr), decode f = .ok i → i.WellFormed ∧ encode i = f

/-- R82: the header word and its fields. -/
def Obligations.HeaderWordFields : Prop :=
  ∀ op flags blen klen : Byte,
    (headerWord op flags blen klen).toNat =
        op.toNat * 2 ^ 24 + flags.toNat * 2 ^ 16 + blen.toNat * 2 ^ 8 + klen.toNat ∧
      (headerWord op flags blen klen).extractLsb' 24 8 = op ∧
      (headerWord op flags blen klen).extractLsb' 17 7 = flags.extractLsb' 1 7 ∧
      headerObs (headerWord op flags blen klen) = flags.getLsbD 0 ∧
      headerBlen (headerWord op flags blen klen) = blen.toNat ∧
      headerKlen (headerWord op flags blen klen) = klen.toNat

/-- R88: at most one row of the opcode table selects a header word. -/
def Obligations.OpcodeRowsExclusive : Prop :=
  ∀ (h : BitVec 32) (r r' : OpcodeRow), r ∈ opcodeTable → r' ∈ opcodeTable →
    r.selects h = true → r'.selects h = true → r = r'

/-- R87: the complete frames that are rejected as illegal are exactly those whose opcode is unlisted, whose
reserved bits are not all 0, or whose `OBS` bit is set with another opcode than 0x40 and 0x41. -/
def Obligations.IllegalEncodingsExactly : Prop :=
  ∀ (op flags blen klen : Byte) (payload : List Byte), payload.length = blen.toNat + klen.toNat →
    (decode (op :: flags :: blen :: klen :: payload) = .error .illegalCommand ↔
      op ∉ ([0x01, 0x02, 0x10, 0x11, 0x20, 0x30, 0x31, 0x32, 0x33, 0x34, 0x35, 0x36, 0x40, 0x41] : List Byte) ∨
        flags &&& 0xFE ≠ 0 ∨ (flags.getLsbD 0 = true ∧ op ≠ 0x40 ∧ op ≠ 0x41))

/-- R81, R85: the operands of a frame that decodes are its payload cut at `BLEN`, `A` first, byte for byte, and
its observer bit is bit 0 of `FLAGS`. -/
def Obligations.OperandsAreThePayloadInOrder : Prop :=
  ∀ (op flags blen klen : Byte) (payload : List Byte) (i : Instr),
    decode (op :: flags :: blen :: klen :: payload) = .ok i →
      i.op.code = op ∧ i.obs = flags.getLsbD 0 ∧ i.opA.length = blen.toNat ∧ i.opB.length = klen.toNat ∧
        payload = i.opA ++ i.opB

/-- Frames written out from R97, one for each family and form. -/
def Obligations.SpecFramesDecode : Prop :=
  decode [0x01, 0x00, 0x01, 0x00, 0x57] = .ok (.xtime [0x57] []) ∧
  decode [0x02, 0x00, 0x02, 0x00, 0x57, 0x83] = .ok (.gfmul [0x57, 0x83] []) ∧
  decode [0x10, 0x00, 0x01, 0x00, 0x53] = .ok (.subbyte [0x53] []) ∧
  decode [0x11, 0x00, 0x01, 0x00, 0xed] = .ok (.invsubbyte [0xed] []) ∧
  decode (0x20 :: 0x00 :: 0x00 :: 0x20 :: List.replicate 32 0x00) = .ok (.expandkey [] (List.replicate 32 0x00)) ∧
  decode (0x36 :: 0x00 :: 0x10 :: 0x10 :: List.replicate 32 0x00) =
    .ok (.addroundkey (List.replicate 16 0x00) (List.replicate 16 0x00)) ∧
  decode (0x40 :: 0x01 :: 0x10 :: 0x20 :: List.replicate 48 0x00) =
    .ok (.encrypt true (List.replicate 16 0x00) (List.replicate 32 0x00)) ∧
  decode (0x40 :: 0x00 :: 0x10 :: 0x1f :: List.replicate 47 0x00) =
    .ok (.encrypt false (List.replicate 16 0x00) (List.replicate 31 0x00)) ∧
  decode (0x41 :: 0x01 :: 0x10 :: 0x20 :: List.replicate 48 0x00) =
    .ok (.decrypt true (List.replicate 16 0x00) (List.replicate 32 0x00)) ∧
  decode [0x01, 0x01, 0x01, 0x00, 0x57] = .error .illegalCommand

/-! ## The step -/

/-- A step runs the decoded instruction: idle, no reset applied, and the frame at the head of `CMD` decodes to
`i`; the step takes the frame from `CMD` and is then `exec i`. -/
def Obligations.StepRunsTheDecodedCommand : Prop :=
  ∀ (s : State) (f : Frame) (rest : List Frame) (i : Instr),
    s.rst = none → s.phase = .idle → s.cmdPending = f :: rest → decode f = .ok i →
      step s = exec i { s with cmdTaken := s.cmdTaken ++ [f], cmdPending := rest }

/-- R262 and R265 at the step: an illegal complete frame is taken and answered `80 00`, its lengths not looked
at, and nothing else changes. -/
def Obligations.StepAnswersIllegalCommand : Prop :=
  ∀ (s : State) (op flags blen klen : Byte) (payload : List Byte) (rest : List Frame),
    s.rst = none → s.phase = .idle → payload.length = blen.toNat + klen.toNat →
    s.cmdPending = (op :: flags :: blen :: klen :: payload) :: rest →
    (op ∉ ([0x01, 0x02, 0x10, 0x11, 0x20, 0x30, 0x31, 0x32, 0x33, 0x34, 0x35, 0x36, 0x40, 0x41] : List Byte) ∨
        flags &&& 0xFE ≠ 0 ∨ (flags.getLsbD 0 = true ∧ op ≠ 0x40 ∧ op ≠ 0x41)) →
      step s = .next { s with
        cmdTaken := s.cmdTaken ++ [op :: flags :: blen :: klen :: payload]
        cmdPending := rest
        out := s.out ++ [.response [0x80, 0x00]] }

/-- The model's choice (log 8): a byte sequence whose length disagrees with its header is refused by name, and
only such a byte sequence is refused. -/
def Obligations.OnlyMalformedFramesAreRefused : Prop :=
  ∀ s : State, step s = .refused .malformedFrame ↔
    s.rst = none ∧ s.phase = .idle ∧ ∃ f rest, s.cmdPending = f :: rest ∧ frameComplete f = false

/-- The model's choice (log 7): an idle core with no frame to take waits, unchanged. -/
def Obligations.IdleCoreWaits : Prop :=
  ∀ s : State, s.rst = none → s.phase = .idle → s.cmdPending = [] → step s = .next s

/-- R300, R302: reset leads to `IDLE` with `RND = 0` whatever the core was doing, and alters no channel: frames
not yet taken remain, what was emitted stays emitted, and no response is given to a command in flight. The
model's choices (log 4): the step that acts on the input releases it, and the input acts before that step or,
in flight, after the event of its stage, which is then emitted. -/
def Obligations.ResetAbandonsAndAltersNoChannel : Prop :=
  ∀ (s : State) (m : ResetMoment), s.rst = some m → (m = .afterEvent → s.phase = .run → s.rnd.toNat ≤ 14) →
    ∃ t, step s = .next t ∧ t.phase = .idle ∧ t.rnd = 0 ∧ t.rst = none ∧
      t.cmdTaken = s.cmdTaken ∧ t.cmdPending = s.cmdPending ∧ t.rsp = s.rsp ∧
      t.out = s.out ++
        if m = .afterEvent ∧ s.phase = .run ∧ s.obsen = true then
          [.event (BitVec.ofNat 8 s.rnd.toNat :: (stageOf s.opreg s.rnd.toNat s.sreg s.rk).toList)]
        else []

/-- R33: the reset values the spec gives. -/
def Obligations.ResetStateAsTheSpecGives : Prop :=
  State.reset.phase = .idle ∧ State.reset.rnd = 0 ∧ State.reset.cmdHistory = [] ∧ State.reset.rsp = [] ∧
    State.reset.obs = [] ∧ State.reset.out = []

/-- R311, R27: while a cipher command is in flight the core takes no frame: they wait in `CMD`, and a command
offered to `exec` then has no effect (the last clause is the model's choice, log 11). -/
def Obligations.FramesWaitWhileRunning : Prop :=
  ∀ s : State, s.phase = .run →
    (∀ t, step s = .next t → t.cmdPending = s.cmdPending ∧ t.cmdTaken = s.cmdTaken) ∧
    (∀ i, exec i s = .next s)

/-! ## The commands answered in one step -/

/-- R111, with the product by 2 written as arithmetic modulo 0x11B. -/
def Obligations.XtimeMeaning : Prop :=
  CommandMeaning .xtime 0x01 1 0 0x81 0x81
    (fun a _ => [BitVec.ofNat 8 (2 * (a.getD 0 0).toNat ^^^ (if 128 ≤ (a.getD 0 0).toNat then 0x11B else 0))])
    nothingWritten

/-- R114, with the product written as the remainder of the polynomial product modulo 0x11B. -/
def Obligations.GfmulMeaning : Prop :=
  CommandMeaning .gfmul 0x02 2 0 0x81 0x81 (fun a _ => [fieldProduct (a.getD 0 0) (a.getD 1 0)]) nothingWritten

/-- R133. -/
def Obligations.SubbyteMeaning : Prop :=
  CommandMeaning .subbyte 0x10 1 0 0x81 0x81
    (fun a _ => [sboxRows.flatten.getD (a.getD 0 0).toNat 0]) nothingWritten

/-- R134. -/
def Obligations.InvsubbyteMeaning : Prop :=
  CommandMeaning .invsubbyte 0x11 1 0 0x81 0x81
    (fun a _ => [invSboxRows.flatten.getD (a.getD 0 0).toNat 0]) nothingWritten

/-- R156: the response is the 240 bytes of the expansion buffer in order; `KEYREG`, `W` and `RK` are written. -/
def Obligations.ExpandkeyMeaning : Prop :=
  CommandMeaning .expandkey 0x20 0 32 0x81 0x01
    (fun _ b => (fillWords (Vector.replicate 60 Word.zero) (Key.ofList b)).toList.flatMap Word.toList)
    (fun _ b s => { s with
      keyreg := Key.ofList b
      w := fillWords (Vector.replicate 60 Word.zero) (Key.ofList b)
      rk := expandKey (Key.ofList b) })

/-- R181 with R180. -/
def Obligations.SubbytesMeaning : Prop :=
  let result := fun (a _ : List Byte) => a.map subByte
  CommandMeaning .subbytes 0x30 16 0 0x81 0x81 result (resultInS result)

/-- R182 with R180. -/
def Obligations.InvsubbytesMeaning : Prop :=
  let result := fun (a _ : List Byte) => a.map invSubByte
  CommandMeaning .invsubbytes 0x31 16 0 0x81 0x81 result (resultInS result)

/-- R183 with R180: `new[i] = old[(5 i) mod 16]`. -/
def Obligations.ShiftrowsMeaning : Prop :=
  let result := fun (a _ : List Byte) => (List.range 16).map fun i => a.getD (5 * i % 16) 0
  CommandMeaning .shiftrows 0x32 16 0 0x81 0x81 result (resultInS result)

/-- R184 with R180: `new[i] = old[(13 i) mod 16]`. -/
def Obligations.InvshiftrowsMeaning : Prop :=
  let result := fun (a _ : List Byte) => (List.range 16).map fun i => a.getD (13 * i % 16) 0
  CommandMeaning .invshiftrows 0x33 16 0 0x81 0x81 result (resultInS result)

/-- R185, R186 with R180: the circulant matrix of row 0 `2 3 1 1`, over the field modulo 0x11B. -/
def Obligations.MixcolumnsMeaning : Prop :=
  let result := fun (a _ : List Byte) => (List.range 16).map (circulantByte 2 3 1 1 a)
  CommandMeaning .mixcolumns 0x34 16 0 0x81 0x81 result (resultInS result)

/-- R187, R188 with R180: the circulant matrix of row 0 `0e 0b 0d 09`, over the field modulo 0x11B. -/
def Obligations.InvmixcolumnsMeaning : Prop :=
  let result := fun (a _ : List Byte) => (List.range 16).map (circulantByte 0x0e 0x0b 0x0d 0x09 a)
  CommandMeaning .invmixcolumns 0x35 16 0 0x81 0x81 result (resultInS result)

/-- R189: the round key is operand `B`; `RK` is not touched. -/
def Obligations.AddroundkeyMeaning : Prop :=
  let result := fun (a b : List Byte) => List.zipWith (· ^^^ ·) a b
  CommandMeaning .addroundkey 0x36 16 16 0x81 0x81 result (resultInS result)

/-! ## The cipher commands -/

/-- R226: ACCEPT of `ENCRYPT` and `DECRYPT`. The checks in order, `A` before `B`, each failure answered with its
status and no other effect; else the registers are written and `PHASE` becomes `RUN`. -/
def Obligations.CipherAccept : Prop :=
  ∀ (s : State) (obs : Bool) (a b : List Byte), s.phase = .idle →
    (a.length ≠ 16 →
      exec (.encrypt obs a b) s = .next { s with out := s.out ++ [.response [0x02, 0x00]] } ∧
      exec (.decrypt obs a b) s = .next { s with out := s.out ++ [.response [0x02, 0x00]] }) ∧
    (a.length = 16 → b.length ≠ 32 →
      exec (.encrypt obs a b) s = .next { s with out := s.out ++ [.response [0x01, 0x00]] } ∧
      exec (.decrypt obs a b) s = .next { s with out := s.out ++ [.response [0x01, 0x00]] }) ∧
    (a.length = 16 → b.length = 32 →
      ∃ t, exec (.encrypt obs a b) s = .next t ∧
        exec (.decrypt obs a b) s = .next { t with opreg := .decrypt } ∧
        t = { s with
          opreg := .encrypt
          obsen := obs
          sreg := Block.ofList a
          keyreg := Key.ofList b
          w := fillWords (Vector.replicate 60 Word.zero) (Key.ofList b)
          rk := expandKey (Key.ofList b)
          rnd := 0
          phase := .run } ∧
        t.sreg.toList = a ∧ t.keyreg.toList = b)

/-- R227 with R221, R224: the STAGE step, the transformation of the stage, its event, and then the next stage
or, after stage 14, the response, appended after the event. That `RND`, dead when idle, keeps 14 after stage 14
is the model's reading (log 13). -/
def Obligations.StageStep : Prop :=
  ∀ s : State, s.rst = none → s.phase = .run → s.rnd.toNat ≤ 14 →
    let n := s.rnd.toNat
    let enc :=
      if n = 0 then addRoundKey s.sreg (roundKey s.rk 0)
      else if n = 14 then addRoundKey (shiftRows (subBytes s.sreg)) (roundKey s.rk 14)
      else addRoundKey (mixColumns (shiftRows (subBytes s.sreg))) (roundKey s.rk n)
    let dec :=
      if n = 0 then addRoundKey s.sreg (roundKey s.rk 14)
      else if n = 14 then addRoundKey (invSubBytes (invShiftRows s.sreg)) (roundKey s.rk 0)
      else invMixColumns (addRoundKey (invSubBytes (invShiftRows s.sreg)) (roundKey s.rk (14 - n)))
    let x := if s.opreg = .encrypt then enc else dec
    step s = .next { s with
      sreg := x
      out := s.out ++ (if s.obsen then [.event (BitVec.ofNat 8 n :: x.toList)] else []) ++
        (if n < 14 then [] else [.response (0x00 :: 0x10 :: x.toList)])
      rnd := if n < 14 then s.rnd + 1 else s.rnd
      phase := if n < 14 then .run else .idle }

/-- The model's choice (log 12): a step that would run stage 15 stops with a fault, and only that does. -/
def Obligations.OnlyStageFifteenFaults : Prop :=
  ∀ s : State, step s = .fault .stageOutOfRange ↔ s.rst ≠ some .beforeStep ∧ s.phase = .run ∧ s.rnd = 15

/-! ## Field and tables -/

/-- R112. -/
def Obligations.XtimeLaws : Prop :=
  (∀ x y, xtime (x ^^^ y) = xtime x ^^^ xtime y) ∧
  (∀ x y, xtime x = xtime y → x = y) ∧ (∀ y, ∃ x, xtime x = y) ∧ (∀ b, gfMul 0x8D (xtime b) = b) ∧
  (∀ b, xtime b = gfMul b 0x02 ∧ xtime b = gfMul 0x02 b)

/-- R115. -/
def Obligations.FieldLaws : Prop :=
  (∀ a b, gfMul a b = gfMul b a) ∧
  (∀ a x y, gfMul a (x ^^^ y) = gfMul a x ^^^ gfMul a y ∧ gfMul (x ^^^ y) a = gfMul x a ^^^ gfMul y a) ∧
  (∀ a b c, gfMul (gfMul a b) c = gfMul a (gfMul b c)) ∧
  (∀ a, gfMul 0x01 a = a ∧ gfMul a 0x01 = a ∧ gfMul 0x00 a = 0x00 ∧ gfMul a 0x00 = 0x00) ∧
  (∀ a, a ≠ 0x00 → ∃ b, gfMul a b = 0x01 ∧ ∀ c, gfMul a c = 0x01 → c = b) ∧
  (∀ x, gfMul 2 x = xtime x ∧ gfMul 3 x = xtime x ^^^ x ∧
    gfMul 9 x = xtime (xtime (xtime x)) ^^^ x ∧
    gfMul 0x0b x = xtime (xtime (xtime x)) ^^^ xtime x ^^^ x ∧
    gfMul 0x0d x = xtime (xtime (xtime x)) ^^^ xtime (xtime x) ^^^ x ∧
    gfMul 0x0e x = xtime (xtime (xtime x)) ^^^ xtime (xtime x) ^^^ xtime x)

/-- R135: the two tables are mutual inverses; neither is an involution. -/
def Obligations.TablesAreMutualInverses : Prop :=
  (∀ b, invSubByte (subByte b) = b ∧ subByte (invSubByte b) = b) ∧
    subByte 0x00 = 0x63 ∧ subByte 0x63 = 0xfb ∧ ∃ b, invSubByte (invSubByte b) ≠ b

/-- R130, its second paragraph: `SBOX[x]` is the affine map of the field inverse of `x`. -/
def Obligations.SboxIsAffineOfInverse : Prop :=
  ∀ x : Byte, ∃ y : Byte, (x = 0 → y = 0) ∧ (x ≠ 0 → gfMul x y = 1) ∧
    ∀ i, i < 8 → (subByte x).getLsbD i = affineBit y i

/-! ## Key schedule -/

/-- R151, R154: what every word of the buffer is after an expansion, whatever it held before. Words 0..7 are the
key's; each later word is the word 8 back XORed with the previous word, which at multiples of 8 is rotated,
substituted and XORed with the round constant (a power of 2) in its first byte, and at 4 more is substituted. -/
def Obligations.KeyScheduleRecurrence : Prop :=
  ∀ (w₀ : WordBuffer) (k : Key),
    let w := fillWords w₀ k
    (∀ i, i < 8 → (wordAt w i).toList = (k.toList.drop (4 * i)).take 4) ∧
    (∀ i, 8 ≤ i → i < 60 →
      let t := wordAt w (i - 1)
      wordAt w i = (wordAt w (i - 8)).xor
        (if i % 8 = 0 then
          ⟨subByte t.b1 ^^^ BitVec.ofNat 8 (2 ^ (i / 8 - 1)), subByte t.b2, subByte t.b3, subByte t.b0⟩
        else if i % 8 = 4 then ⟨subByte t.b0, subByte t.b1, subByte t.b2, subByte t.b3⟩
        else t))

/-- R150, R31: an expansion does not depend on what the buffer held before. -/
def Obligations.ExpansionIgnoresTheOldBuffer : Prop :=
  ∀ (w w' : WordBuffer) (k : Key), fillWords w k = fillWords w' k

/-- R155, R54: an expansion latches the key, fills `W`, and byte `j` of round key `k` is byte `j mod 4` of word
`4k + j div 4`. -/
def Obligations.RoundKeysAreSlicesOfTheWords : Prop :=
  ∀ (s : State) (key : Key),
    (s.expandInto key).keyreg = key ∧ (s.expandInto key).w = fillWords s.w key ∧
    ∀ (k : Nat) (j : Fin 16), k < 15 →
      (roundKey (s.expandInto key).rk k).byte j =
        (wordAt (s.expandInto key).w (4 * k + j.val / 4)).get ⟨j.val % 4, Nat.mod_lt _ (by decide)⟩

/-- R157 (a), (b), and R156: the response of an expansion begins with the key. -/
def Obligations.FirstTwoRoundKeysAreTheKey : Prop :=
  ∀ k : Key, (roundKey (expandKey k) 0).toList = k.toList.take 16 ∧
    (roundKey (expandKey k) 1).toList = k.toList.drop 16 ∧
    (roundKeyBytes (expandKey k)).take 32 = k.toList ∧ (roundKeyBytes (expandKey k)).length = 240

/-- R157 (e): two consecutive round keys, the first even-numbered, determine the key. -/
def Obligations.TwoRoundKeysDetermineTheKey : Prop :=
  ∀ (k k' : Key) (m : Nat), m < 7 →
    roundKey (expandKey k) (2 * m) = roundKey (expandKey k') (2 * m) →
    roundKey (expandKey k) (2 * m + 1) = roundKey (expandKey k') (2 * m + 1) → k = k'

/-! ## Round transformations and the cipher -/

/-- R190: the inverse pairs, the pairs that commute, and which transformations are linear. -/
def Obligations.RoundTransformationLaws : Prop :=
  (∀ x, invSubBytes (subBytes x) = x ∧ subBytes (invSubBytes x) = x) ∧
  (∀ x, invShiftRows (shiftRows x) = x ∧ shiftRows (invShiftRows x) = x) ∧
  (∀ x, invMixColumns (mixColumns x) = x ∧ mixColumns (invMixColumns x) = x) ∧
  (∀ x k, addRoundKey (addRoundKey x k) k = x) ∧
  (∀ x, subBytes (shiftRows x) = shiftRows (subBytes x) ∧
    invSubBytes (invShiftRows x) = invShiftRows (invSubBytes x)) ∧
  (∀ x y : Block, mixColumns (x.xor y) = (mixColumns x).xor (mixColumns y) ∧
    invMixColumns (x.xor y) = (invMixColumns x).xor (invMixColumns y) ∧
    shiftRows (x.xor y) = (shiftRows x).xor (shiftRows y) ∧
    invShiftRows (x.xor y) = (invShiftRows x).xor (invShiftRows y)) ∧
  (∃ x y : Block, subBytes (x.xor y) ≠ (subBytes x).xor (subBytes y))

/-- R244: the round trip, in both directions, for every block and key. -/
def Obligations.CipherRoundTrip : Prop :=
  ∀ (x : Block) (k : Key),
    decryptBlock (encryptBlock x k) k = x ∧ encryptBlock (decryptBlock x k) k = x

/-- R243: how the events of a decryption relate to those of the encryption it undoes. -/
def Obligations.EventRelations : Prop :=
  (∀ (p : Block) (k : Key),
    let e := encState p (expandKey k)
    let d := decState (encryptBlock p k) (expandKey k)
    d 14 = p ∧ (∀ j, j ≤ 13 → d j = shiftRows (subBytes (e (13 - j)))) ∧
      e 0 = p.xor (roundKey (expandKey k) 0) ∧ d 0 = (encryptBlock p k).xor (roundKey (expandKey k) 14)) ∧
  (∃ (p : Block) (k : Key) (j : Nat), j ≤ 14 ∧
    decState (encryptBlock p k) (expandKey k) j ≠ encState p (expandKey k) (14 - j))

/-- R241: a frame causes 15 events or none: 15, with indices 0..14 in order, exactly when it is a valid cipher
command with `OBS = 1`, and the last then carries the bytes of the response. -/
def Obligations.FifteenEventsOrNone : Prop :=
  ∀ (f : Frame) (i : Instr), decode f = .ok i →
    ((ValidCipher i ∧ i.obs = true) →
      (frameEvents f).map (·.take 1) = (List.range 15).map (fun n => [BitVec.ofNat 8 n]) ∧
      ∃ x : Block, (frameEvents f).getLast? = some (0x0e :: x.toList) ∧
        frameResponse f = 0x00 :: 0x10 :: x.toList) ∧
    (¬(ValidCipher i ∧ i.obs = true) → frameEvents f = [])

/-! ## The machine as a whole -/

/-- R229, R316, R245: any complete frame at the head of `CMD` of an idle core is answered: in exactly 16 steps for
a valid cipher command and 1 for any other, the core is idle again and has appended the events of the big-step
description and, after them, the one response. -/
def Obligations.EveryFrameIsAnsweredAsTheBigStepSays : Prop :=
  ∀ (s : State) (f : Frame) (rest : List Frame),
    s.rst = none → s.phase = .idle → s.cmdPending = f :: rest → frameComplete f = true →
      ∃ t, Host.Core.run core (frameSteps f) s = .next t ∧ t.phase = .idle ∧ t.rst = none ∧
        t.cmdTaken = s.cmdTaken ++ [f] ∧ t.cmdPending = rest ∧
        t.out = s.out ++ (frameEvents f).map .event ++ [.response (frameResponse f)] ∧
        t.rsp = s.rsp ++ [frameResponse f] ∧ t.obs = s.obs ++ frameEvents f

/-- R245, R62, R222, R225: what stands after the ACCEPT step and `k` STAGE steps of a valid cipher command: `S`
is the big-step state, the first `k` events are out, in order, and the response is not. The sixteenth step
appends the response, after all events, and the next frame still waits. -/
def Obligations.EventsComeBeforeTheResponse : Prop :=
  ∀ (s : State) (f : Frame) (rest : List Frame) (i : Instr),
    s.rst = none → s.phase = .idle → s.cmdPending = f :: rest → decode f = .ok i → ValidCipher i →
      let states := cipherState i.op (Block.ofList i.opA) (expandKey (Key.ofList i.opB))
      let events := fun k => (List.range k).map fun n => Output.event (BitVec.ofNat 8 n :: (states n).toList)
      (∀ k, k ≤ 14 →
        ∃ t, Host.Core.run core (k + 1) s = .next t ∧ t.InFlight i ∧ t.phase = .run ∧ t.rnd.toNat = k ∧
          t.cmdPending = rest ∧ t.out = s.out ++ if i.obs then events k else []) ∧
      ∃ t, Host.Core.run core 16 s = .next t ∧ t.phase = .idle ∧ t.cmdPending = rest ∧
        t.out = s.out ++ (if i.obs then events 15 else []) ++ [.response (0x00 :: 0x10 :: (states 14).toList)]

/-- R317, R245: a run that is given any number of complete frames ends, with the events and then the one response
of each frame taken, in order, each before anything of the next. -/
def Obligations.EveryQueueIsAnsweredInOrder : Prop :=
  ∀ s : State, s.rst = none → s.phase = .idle → s.FramesComplete →
    ∃ n t, n ≤ 16 * s.cmdPending.length ∧ Host.Core.run core n s = .next t ∧ t.phase = .idle ∧
      t.cmdPending = [] ∧ t.cmdTaken = s.cmdTaken ++ s.cmdPending ∧
      t.out = s.out ++ s.cmdPending.flatMap frameOutput ∧
      t.rsp = s.rsp ++ s.cmdPending.map frameResponse ∧ t.obs = s.obs ++ s.cmdPending.flatMap frameEvents

/-- R244 on the machine: presented with an `ENCRYPT` frame and then the `DECRYPT` frame of its ciphertext under
the same key, with any observer bits, an idle core answers in 32 steps the ciphertext and then the plaintext. -/
def Obligations.MachineDecryptsWhatItEncrypts : Prop :=
  ∀ (s : State) (o o' : Bool) (a b : List Byte) (rest : List Frame), a.length = 16 → b.length = 32 →
    let c := encryptBlock (Block.ofList a) (Key.ofList b)
    s.rst = none → s.phase = .idle →
    s.cmdPending = encode (.encrypt o a b) :: encode (.decrypt o' c.toList b) :: rest →
      ∃ t, Host.Core.run core 32 s = .next t ∧ t.phase = .idle ∧ t.cmdPending = rest ∧
        t.rsp = s.rsp ++ [0x00 :: 0x10 :: c.toList, 0x00 :: 0x10 :: a]

/-- Every step keeps the agreement of the outputs, and of their order, with the big-step description of the
frames taken, under the launch premise of R302, which it keeps too. -/
def Obligations.StepKeepsHistoryAgreement : Prop :=
  ∀ s t : State, s.HistoryAgrees → s.HostNeverResetsBusy → step s = .next t →
    t.HistoryAgrees ∧ t.HostNeverResetsBusy

/-- The agreement holds at reset, and what the host does keeps it: presenting a frame, and resetting an idle
core. -/
def Obligations.HistoryAgreementAtResetAndUnderTheHost : Prop :=
  State.reset.HistoryAgrees ∧ State.reset.HostNeverResetsBusy ∧
  (∀ (s : State) (f : Frame), s.HistoryAgrees → s.HostNeverResetsBusy →
    (s.hostPresent f).HistoryAgrees ∧ (s.hostPresent f).HostNeverResetsBusy) ∧
  (∀ (s : State) (m : ResetMoment), s.HistoryAgrees → s.phase = .idle →
    (s.hostReset m).HistoryAgrees ∧ (s.hostReset m).HostNeverResetsBusy)

/-- R26, R316: with legal sequencing registers and complete frames the core never stops: every step answers a
next state, in which the same holds. Reset in flight is allowed. -/
def Obligations.StepNeverStopsAndKeepsSequencing : Prop :=
  ∀ s : State, s.SequencingLegal → s.FramesComplete →
    ∃ t, step s = .next t ∧ t.SequencingLegal ∧ t.FramesComplete

/-- Legal sequencing and complete frames hold at reset. -/
def Obligations.SequencingLegalAtReset : Prop :=
  State.reset.SequencingLegal ∧ State.reset.FramesComplete ∧ State.reset.ChannelsLegal

/-- R92, R93, R94: a step appends legal response and event frames only; status 0x03 is never produced. -/
def Obligations.StepKeepsChannelsLegal : Prop :=
  ∀ s t : State, s.ChannelsLegal → step s = .next t → t.ChannelsLegal

/-- R28, R245: the channels are append-only histories: a step moves at most one frame of `CMD` from pending to
taken, appends at most one event and at most one response, the event first, and changes nothing else of them. -/
def Obligations.ChannelsAreAppendOnly : Prop :=
  ∀ s t : State, step s = .next t →
    t.cmdHistory = s.cmdHistory ∧
    (t.cmdTaken = s.cmdTaken ∨ ∃ f, t.cmdTaken = s.cmdTaken ++ [f]) ∧
    ∃ events responses : List Frame, events.length ≤ 1 ∧ responses.length ≤ 1 ∧
      t.out = s.out ++ events.map .event ++ responses.map .response ∧
      t.rsp = s.rsp ++ responses ∧ t.obs = s.obs ++ events

/-- R36: the access matrix, as the frame of every command in `IDLE`: which registers it leaves unchanged. -/
def Obligations.CommandsWriteOnlyTheirRegisters : Prop :=
  ∀ (i : Instr) (s t : State), s.phase = .idle → exec i s = .next t →
    (i.op ∈ [Op.xtime, .gfmul, .subbyte, .invsubbyte, .expandkey] → t.sreg = s.sreg) ∧
    (i.op ∉ [Op.expandkey, .encrypt, .decrypt] → t.keyreg = s.keyreg ∧ t.w = s.w ∧ t.rk = s.rk) ∧
    (i.op ∉ [Op.encrypt, .decrypt] →
      t.phase = .idle ∧ t.rnd = s.rnd ∧ t.opreg = s.opreg ∧ t.obsen = s.obsen) ∧
    (t.out = s.out ∨ ∃ f, t.out = s.out ++ [.response f]) ∧ t.cmdTaken = s.cmdTaken ∧
    t.cmdPending = s.cmdPending ∧ t.rst = s.rst ∧ t.resetDraws = s.resetDraws

/-- R21, R25, and the frame of the STAGE step: while a cipher command is in flight, the key register, the word
buffer, the round keys, `OPREG` and `OBSEN` do not change, and `CMD` is not touched. -/
def Obligations.StagesLeaveKeyMaterialUnchanged : Prop :=
  ∀ s t : State, s.phase = .run → s.rst = none → step s = .next t →
    t.keyreg = s.keyreg ∧ t.w = s.w ∧ t.rk = s.rk ∧ t.opreg = s.opreg ∧ t.obsen = s.obsen ∧
    t.cmdTaken = s.cmdTaken ∧ t.cmdPending = s.cmdPending ∧ t.rst = s.rst ∧ t.resetDraws = s.resetDraws

/-- R31, R32: no leftovers. Two idle cores that show the same at the channels show the same after any number of
steps, whatever their working registers and stage counters held. -/
def Obligations.LeftoversAreNeverSeen : Prop :=
  ∀ (n : Nat) (s s' t : State), s.phase = .idle → s.SameChannels s' → Host.Core.run core n s = .next t →
    ∃ t', Host.Core.run core n s' = .next t' ∧ t.SameChannels t'

/-- R91, R242: the observer does not change the responses. Withdrawing every observer request from the pending
frames leaves every response as it was, at every step of the run. -/
def Obligations.ObserverNeverChangesResponses : Prop :=
  ∀ (n : Nat) (s t : State), s.phase = .idle → Host.Core.run core n s = .next t →
    ∃ t', Host.Core.run core n { s with cmdPending := s.cmdPending.map withoutObserver } = .next t' ∧
      t'.rsp = t.rsp ∧ t'.phase = t.phase ∧ t'.rnd = t.rnd ∧ t'.sreg = t.sreg ∧ t'.obs = s.obs

/-- R282: instances do not interact: the steps of two instances may be taken in either order, with the same
result, and a step of one leaves every other as it was. -/
def Obligations.InstancesAreIndependent : Prop :=
  ∀ (sys : System) (j k : Nat), j ≠ k →
    ((sys.stepAt j).bind (·.stepAt k) = (sys.stepAt k).bind (·.stepAt j)) ∧
    (∀ sys', sys.stepAt j = some sys' → sys'[k]? = sys[k]?)

/-- R302: reset in flight. After ACCEPT and `k` STAGE steps, reset abandons the command at either moment: the core
is idle, no response is given then, and of the command's 15 events the first `k`, or `k + 1`, are out, so any
number from 0 to 15. The frames that wait remain. The two moments are the model's form of the asynchronous input
(log 4). -/
def Obligations.ResetInFlightLeavesZeroToFifteenEvents : Prop :=
  ∀ (s : State) (f : Frame) (rest : List Frame) (i : Instr) (k : Nat) (m : ResetMoment),
    s.rst = none → s.phase = .idle → s.cmdPending = f :: rest → decode f = .ok i → ValidCipher i → k ≤ 14 →
      ∃ t u : State, Host.Core.run core (k + 1) s = .next t ∧ t.phase = .run ∧ step (t.hostReset m) = .next u ∧
        u.phase = .idle ∧ u.rnd = 0 ∧ u.cmdTaken = s.cmdTaken ++ [f] ∧ u.cmdPending = rest ∧ u.rsp = s.rsp ∧
        u.out = s.out ++ ((frameEvents f).take (if m = .afterEvent then k + 1 else k)).map .event
end

