-- ==== Sys2Proof/Laws/Layout.lean ====
section
/-! SUPPORT. The byte-order functions: a block or a key and its byte sequence determine each other, and
byte-wise XOR. -/

namespace Sys2Proof

@[simp] theorem Word.toList_length (x : Word) : x.toList.length = 4 := rfl

@[simp] theorem Block.toList_length (x : Block) : x.toList.length = 16 := rfl

@[simp] theorem Key.toList_length (k : Key) : k.toList.length = 32 := rfl

@[simp] theorem Block.ofList_toList (x : Block) : Block.ofList x.toList = x := rfl

@[simp] theorem Key.ofList_toList (k : Key) : Key.ofList k.toList = k := rfl

theorem Block.toList_ofList (l : List Byte) (h : l.length = 16) : (Block.ofList l).toList = l := by
  match l, h with
  | [_, _, _, _, _, _, _, _, _, _, _, _, _, _, _, _], _ => rfl

theorem Key.toList_ofList (l : List Byte) (h : l.length = 32) : (Key.ofList l).toList = l := by
  match l, h with
  | [_, _, _, _, _, _, _, _, _, _, _, _, _, _, _, _, _, _, _, _, _, _, _, _, _, _, _, _, _, _, _, _], _ => rfl

theorem Block.toList_inj {x y : Block} : x.toList = y.toList ↔ x = y :=
  ⟨fun h => by rw [← Block.ofList_toList x, h, Block.ofList_toList], fun h => by rw [h]⟩

@[simp] theorem Word.xor_xor_cancel (x y : Word) : (x.xor y).xor y = x := by
  simp [Word.xor]

@[simp] theorem Block.xor_xor_cancel (x y : Block) : (x.xor y).xor y = x := by
  simp [Block.xor]

end Sys2Proof
end

