-- ==== Sys2Proof/Laws/State.lean ====
section
/-! SUPPORT. One lemma for each field under each update of the state, so that no later proof unfolds an update. -/

namespace Sys2Proof.Machine

/-! `emitRsp` -/

@[simp] theorem State.emitRsp_phase (s : State) (st : Status) (x : List Byte) : (s.emitRsp st x).phase = s.phase := rfl
@[simp] theorem State.emitRsp_rnd (s : State) (st : Status) (x : List Byte) : (s.emitRsp st x).rnd = s.rnd := rfl
@[simp] theorem State.emitRsp_opreg (s : State) (st : Status) (x : List Byte) : (s.emitRsp st x).opreg = s.opreg := rfl
@[simp] theorem State.emitRsp_obsen (s : State) (st : Status) (x : List Byte) : (s.emitRsp st x).obsen = s.obsen := rfl
@[simp] theorem State.emitRsp_sreg (s : State) (st : Status) (x : List Byte) : (s.emitRsp st x).sreg = s.sreg := rfl
@[simp] theorem State.emitRsp_keyreg (s : State) (st : Status) (x : List Byte) : (s.emitRsp st x).keyreg = s.keyreg := rfl
@[simp] theorem State.emitRsp_w (s : State) (st : Status) (x : List Byte) : (s.emitRsp st x).w = s.w := rfl
@[simp] theorem State.emitRsp_rk (s : State) (st : Status) (x : List Byte) : (s.emitRsp st x).rk = s.rk := rfl
@[simp] theorem State.emitRsp_cmdTaken (s : State) (st : Status) (x : List Byte) : (s.emitRsp st x).cmdTaken = s.cmdTaken := rfl
@[simp] theorem State.emitRsp_cmdPending (s : State) (st : Status) (x : List Byte) : (s.emitRsp st x).cmdPending = s.cmdPending := rfl
@[simp] theorem State.emitRsp_out (s : State) (st : Status) (x : List Byte) : (s.emitRsp st x).out = s.out ++ [.response (responseFrame st x)] := rfl
@[simp] theorem State.emitRsp_rsp (s : State) (st : Status) (x : List Byte) : (s.emitRsp st x).rsp = s.rsp ++ [responseFrame st x] := by
  simp [State.rsp, Output.onRsp]
@[simp] theorem State.emitRsp_obs (s : State) (st : Status) (x : List Byte) : (s.emitRsp st x).obs = s.obs := by
  simp [State.obs, Output.onObs]
@[simp] theorem State.emitRsp_rst (s : State) (st : Status) (x : List Byte) : (s.emitRsp st x).rst = s.rst := rfl
@[simp] theorem State.emitRsp_resetDraws (s : State) (st : Status) (x : List Byte) : (s.emitRsp st x).resetDraws = s.resetDraws := rfl

/-! `emitObs` -/

@[simp] theorem State.emitObs_phase (s : State) (n : Nat) (x : Block) : (s.emitObs n x).phase = s.phase := rfl
@[simp] theorem State.emitObs_rnd (s : State) (n : Nat) (x : Block) : (s.emitObs n x).rnd = s.rnd := rfl
@[simp] theorem State.emitObs_opreg (s : State) (n : Nat) (x : Block) : (s.emitObs n x).opreg = s.opreg := rfl
@[simp] theorem State.emitObs_obsen (s : State) (n : Nat) (x : Block) : (s.emitObs n x).obsen = s.obsen := rfl
@[simp] theorem State.emitObs_sreg (s : State) (n : Nat) (x : Block) : (s.emitObs n x).sreg = s.sreg := rfl
@[simp] theorem State.emitObs_keyreg (s : State) (n : Nat) (x : Block) : (s.emitObs n x).keyreg = s.keyreg := rfl
@[simp] theorem State.emitObs_w (s : State) (n : Nat) (x : Block) : (s.emitObs n x).w = s.w := rfl
@[simp] theorem State.emitObs_rk (s : State) (n : Nat) (x : Block) : (s.emitObs n x).rk = s.rk := rfl
@[simp] theorem State.emitObs_cmdTaken (s : State) (n : Nat) (x : Block) : (s.emitObs n x).cmdTaken = s.cmdTaken := rfl
@[simp] theorem State.emitObs_cmdPending (s : State) (n : Nat) (x : Block) : (s.emitObs n x).cmdPending = s.cmdPending := rfl
@[simp] theorem State.emitObs_out (s : State) (n : Nat) (x : Block) : (s.emitObs n x).out = s.out ++ [.event (eventFrame n x.toList)] := rfl
@[simp] theorem State.emitObs_rsp (s : State) (n : Nat) (x : Block) : (s.emitObs n x).rsp = s.rsp := by
  simp [State.rsp, Output.onRsp]
@[simp] theorem State.emitObs_obs (s : State) (n : Nat) (x : Block) : (s.emitObs n x).obs = s.obs ++ [eventFrame n x.toList] := by
  simp [State.obs, Output.onObs]
@[simp] theorem State.emitObs_rst (s : State) (n : Nat) (x : Block) : (s.emitObs n x).rst = s.rst := rfl
@[simp] theorem State.emitObs_resetDraws (s : State) (n : Nat) (x : Block) : (s.emitObs n x).resetDraws = s.resetDraws := rfl

/-! `applyReset` -/

@[simp] theorem State.applyReset_phase (s : State) : (s.applyReset).phase = .idle := rfl
@[simp] theorem State.applyReset_rnd (s : State) : (s.applyReset).rnd = 0 := rfl
@[simp] theorem State.applyReset_opreg (s : State) : (s.applyReset).opreg = (Config.afterReset s.resetDraws s.workRegs).opreg := rfl
@[simp] theorem State.applyReset_obsen (s : State) : (s.applyReset).obsen = (Config.afterReset s.resetDraws s.workRegs).obsen := rfl
@[simp] theorem State.applyReset_sreg (s : State) : (s.applyReset).sreg = (Config.afterReset s.resetDraws s.workRegs).sreg := rfl
@[simp] theorem State.applyReset_keyreg (s : State) : (s.applyReset).keyreg = (Config.afterReset s.resetDraws s.workRegs).keyreg := rfl
@[simp] theorem State.applyReset_w (s : State) : (s.applyReset).w = (Config.afterReset s.resetDraws s.workRegs).w := rfl
@[simp] theorem State.applyReset_rk (s : State) : (s.applyReset).rk = (Config.afterReset s.resetDraws s.workRegs).rk := rfl
@[simp] theorem State.applyReset_cmdTaken (s : State) : (s.applyReset).cmdTaken = s.cmdTaken := rfl
@[simp] theorem State.applyReset_cmdPending (s : State) : (s.applyReset).cmdPending = s.cmdPending := rfl
@[simp] theorem State.applyReset_out (s : State) : (s.applyReset).out = s.out := rfl
@[simp] theorem State.applyReset_rsp (s : State) : (s.applyReset).rsp = s.rsp := rfl
@[simp] theorem State.applyReset_obs (s : State) : (s.applyReset).obs = s.obs := rfl
@[simp] theorem State.applyReset_rst (s : State) : (s.applyReset).rst = none := rfl
@[simp] theorem State.applyReset_resetDraws (s : State) : (s.applyReset).resetDraws = s.resetDraws + 1 := rfl

/-! `hostPresent` -/

@[simp] theorem State.hostPresent_phase (s : State) (f : Frame) : (s.hostPresent f).phase = s.phase := rfl
@[simp] theorem State.hostPresent_rnd (s : State) (f : Frame) : (s.hostPresent f).rnd = s.rnd := rfl
@[simp] theorem State.hostPresent_opreg (s : State) (f : Frame) : (s.hostPresent f).opreg = s.opreg := rfl
@[simp] theorem State.hostPresent_obsen (s : State) (f : Frame) : (s.hostPresent f).obsen = s.obsen := rfl
@[simp] theorem State.hostPresent_sreg (s : State) (f : Frame) : (s.hostPresent f).sreg = s.sreg := rfl
@[simp] theorem State.hostPresent_keyreg (s : State) (f : Frame) : (s.hostPresent f).keyreg = s.keyreg := rfl
@[simp] theorem State.hostPresent_w (s : State) (f : Frame) : (s.hostPresent f).w = s.w := rfl
@[simp] theorem State.hostPresent_rk (s : State) (f : Frame) : (s.hostPresent f).rk = s.rk := rfl
@[simp] theorem State.hostPresent_cmdTaken (s : State) (f : Frame) : (s.hostPresent f).cmdTaken = s.cmdTaken := rfl
@[simp] theorem State.hostPresent_cmdPending (s : State) (f : Frame) : (s.hostPresent f).cmdPending = s.cmdPending ++ [f] := rfl
@[simp] theorem State.hostPresent_out (s : State) (f : Frame) : (s.hostPresent f).out = s.out := rfl
@[simp] theorem State.hostPresent_rsp (s : State) (f : Frame) : (s.hostPresent f).rsp = s.rsp := rfl
@[simp] theorem State.hostPresent_obs (s : State) (f : Frame) : (s.hostPresent f).obs = s.obs := rfl
@[simp] theorem State.hostPresent_rst (s : State) (f : Frame) : (s.hostPresent f).rst = s.rst := rfl
@[simp] theorem State.hostPresent_resetDraws (s : State) (f : Frame) : (s.hostPresent f).resetDraws = s.resetDraws := rfl

/-! `hostReset` -/

@[simp] theorem State.hostReset_phase (s : State) (m : ResetMoment) : (s.hostReset m).phase = s.phase := rfl
@[simp] theorem State.hostReset_rnd (s : State) (m : ResetMoment) : (s.hostReset m).rnd = s.rnd := rfl
@[simp] theorem State.hostReset_opreg (s : State) (m : ResetMoment) : (s.hostReset m).opreg = s.opreg := rfl
@[simp] theorem State.hostReset_obsen (s : State) (m : ResetMoment) : (s.hostReset m).obsen = s.obsen := rfl
@[simp] theorem State.hostReset_sreg (s : State) (m : ResetMoment) : (s.hostReset m).sreg = s.sreg := rfl
@[simp] theorem State.hostReset_keyreg (s : State) (m : ResetMoment) : (s.hostReset m).keyreg = s.keyreg := rfl
@[simp] theorem State.hostReset_w (s : State) (m : ResetMoment) : (s.hostReset m).w = s.w := rfl
@[simp] theorem State.hostReset_rk (s : State) (m : ResetMoment) : (s.hostReset m).rk = s.rk := rfl
@[simp] theorem State.hostReset_cmdTaken (s : State) (m : ResetMoment) : (s.hostReset m).cmdTaken = s.cmdTaken := rfl
@[simp] theorem State.hostReset_cmdPending (s : State) (m : ResetMoment) : (s.hostReset m).cmdPending = s.cmdPending := rfl
@[simp] theorem State.hostReset_out (s : State) (m : ResetMoment) : (s.hostReset m).out = s.out := rfl
@[simp] theorem State.hostReset_rsp (s : State) (m : ResetMoment) : (s.hostReset m).rsp = s.rsp := rfl
@[simp] theorem State.hostReset_obs (s : State) (m : ResetMoment) : (s.hostReset m).obs = s.obs := rfl
@[simp] theorem State.hostReset_rst (s : State) (m : ResetMoment) : (s.hostReset m).rst = some m := rfl
@[simp] theorem State.hostReset_resetDraws (s : State) (m : ResetMoment) : (s.hostReset m).resetDraws = s.resetDraws := rfl

/-! `expandInto` -/

@[simp] theorem State.expandInto_phase (s : State) (k : Key) : (s.expandInto k).phase = s.phase := rfl
@[simp] theorem State.expandInto_rnd (s : State) (k : Key) : (s.expandInto k).rnd = s.rnd := rfl
@[simp] theorem State.expandInto_opreg (s : State) (k : Key) : (s.expandInto k).opreg = s.opreg := rfl
@[simp] theorem State.expandInto_obsen (s : State) (k : Key) : (s.expandInto k).obsen = s.obsen := rfl
@[simp] theorem State.expandInto_sreg (s : State) (k : Key) : (s.expandInto k).sreg = s.sreg := rfl
@[simp] theorem State.expandInto_keyreg (s : State) (k : Key) : (s.expandInto k).keyreg = k := rfl
@[simp] theorem State.expandInto_w (s : State) (k : Key) : (s.expandInto k).w = fillWords s.w k := rfl
@[simp] theorem State.expandInto_rk (s : State) (k : Key) : (s.expandInto k).rk = sliceRoundKeys (fillWords s.w k) := rfl
@[simp] theorem State.expandInto_cmdTaken (s : State) (k : Key) : (s.expandInto k).cmdTaken = s.cmdTaken := rfl
@[simp] theorem State.expandInto_cmdPending (s : State) (k : Key) : (s.expandInto k).cmdPending = s.cmdPending := rfl
@[simp] theorem State.expandInto_out (s : State) (k : Key) : (s.expandInto k).out = s.out := rfl
@[simp] theorem State.expandInto_rsp (s : State) (k : Key) : (s.expandInto k).rsp = s.rsp := rfl
@[simp] theorem State.expandInto_obs (s : State) (k : Key) : (s.expandInto k).obs = s.obs := rfl
@[simp] theorem State.expandInto_rst (s : State) (k : Key) : (s.expandInto k).rst = s.rst := rfl
@[simp] theorem State.expandInto_resetDraws (s : State) (k : Key) : (s.expandInto k).resetDraws = s.resetDraws := rfl

/-! `transform` -/

@[simp] theorem State.transform_phase (s : State) (a : List Byte) (t : Block → Block) : (s.transform a t).phase = s.phase := rfl
@[simp] theorem State.transform_rnd (s : State) (a : List Byte) (t : Block → Block) : (s.transform a t).rnd = s.rnd := rfl
@[simp] theorem State.transform_opreg (s : State) (a : List Byte) (t : Block → Block) : (s.transform a t).opreg = s.opreg := rfl
@[simp] theorem State.transform_obsen (s : State) (a : List Byte) (t : Block → Block) : (s.transform a t).obsen = s.obsen := rfl
@[simp] theorem State.transform_sreg (s : State) (a : List Byte) (t : Block → Block) : (s.transform a t).sreg = t (Block.ofList a) := rfl
@[simp] theorem State.transform_keyreg (s : State) (a : List Byte) (t : Block → Block) : (s.transform a t).keyreg = s.keyreg := rfl
@[simp] theorem State.transform_w (s : State) (a : List Byte) (t : Block → Block) : (s.transform a t).w = s.w := rfl
@[simp] theorem State.transform_rk (s : State) (a : List Byte) (t : Block → Block) : (s.transform a t).rk = s.rk := rfl
@[simp] theorem State.transform_cmdTaken (s : State) (a : List Byte) (t : Block → Block) : (s.transform a t).cmdTaken = s.cmdTaken := rfl
@[simp] theorem State.transform_cmdPending (s : State) (a : List Byte) (t : Block → Block) : (s.transform a t).cmdPending = s.cmdPending := rfl
@[simp] theorem State.transform_out (s : State) (a : List Byte) (t : Block → Block) : (s.transform a t).out = s.out ++ [.response (responseFrame .ok (t (Block.ofList a)).toList)] := rfl
@[simp] theorem State.transform_rsp (s : State) (a : List Byte) (t : Block → Block) : (s.transform a t).rsp = s.rsp ++ [responseFrame .ok (t (Block.ofList a)).toList] := by
  simp [State.rsp, Output.onRsp]
@[simp] theorem State.transform_obs (s : State) (a : List Byte) (t : Block → Block) : (s.transform a t).obs = s.obs := by
  simp [State.obs, Output.onObs]
@[simp] theorem State.transform_rst (s : State) (a : List Byte) (t : Block → Block) : (s.transform a t).rst = s.rst := rfl
@[simp] theorem State.transform_resetDraws (s : State) (a : List Byte) (t : Block → Block) : (s.transform a t).resetDraws = s.resetDraws := rfl

/-! `acceptCipher` -/

@[simp] theorem State.acceptCipher_phase (s : State) (op : Op) (o : Bool) (a b : List Byte) : (s.acceptCipher op o a b).phase = .run := rfl
@[simp] theorem State.acceptCipher_rnd (s : State) (op : Op) (o : Bool) (a b : List Byte) : (s.acceptCipher op o a b).rnd = 0 := rfl
@[simp] theorem State.acceptCipher_opreg (s : State) (op : Op) (o : Bool) (a b : List Byte) : (s.acceptCipher op o a b).opreg = op := rfl
@[simp] theorem State.acceptCipher_obsen (s : State) (op : Op) (o : Bool) (a b : List Byte) : (s.acceptCipher op o a b).obsen = o := rfl
@[simp] theorem State.acceptCipher_sreg (s : State) (op : Op) (o : Bool) (a b : List Byte) : (s.acceptCipher op o a b).sreg = Block.ofList a := rfl
@[simp] theorem State.acceptCipher_keyreg (s : State) (op : Op) (o : Bool) (a b : List Byte) : (s.acceptCipher op o a b).keyreg = Key.ofList b := rfl
@[simp] theorem State.acceptCipher_w (s : State) (op : Op) (o : Bool) (a b : List Byte) : (s.acceptCipher op o a b).w = fillWords s.w (Key.ofList b) := rfl
@[simp] theorem State.acceptCipher_rk (s : State) (op : Op) (o : Bool) (a b : List Byte) : (s.acceptCipher op o a b).rk = sliceRoundKeys (fillWords s.w (Key.ofList b)) := rfl
@[simp] theorem State.acceptCipher_cmdTaken (s : State) (op : Op) (o : Bool) (a b : List Byte) : (s.acceptCipher op o a b).cmdTaken = s.cmdTaken := rfl
@[simp] theorem State.acceptCipher_cmdPending (s : State) (op : Op) (o : Bool) (a b : List Byte) : (s.acceptCipher op o a b).cmdPending = s.cmdPending := rfl
@[simp] theorem State.acceptCipher_out (s : State) (op : Op) (o : Bool) (a b : List Byte) : (s.acceptCipher op o a b).out = s.out := rfl
@[simp] theorem State.acceptCipher_rsp (s : State) (op : Op) (o : Bool) (a b : List Byte) : (s.acceptCipher op o a b).rsp = s.rsp := rfl
@[simp] theorem State.acceptCipher_obs (s : State) (op : Op) (o : Bool) (a b : List Byte) : (s.acceptCipher op o a b).obs = s.obs := rfl
@[simp] theorem State.acceptCipher_rst (s : State) (op : Op) (o : Bool) (a b : List Byte) : (s.acceptCipher op o a b).rst = s.rst := rfl
@[simp] theorem State.acceptCipher_resetDraws (s : State) (op : Op) (o : Bool) (a b : List Byte) : (s.acceptCipher op o a b).resetDraws = s.resetDraws := rfl

/-! `takeFrame` -/

@[simp] theorem State.takeFrame_phase (s : State) : s.takeFrame.phase = s.phase := by
  cases h : s.cmdPending <;> simp [State.takeFrame, h]
@[simp] theorem State.takeFrame_rnd (s : State) : s.takeFrame.rnd = s.rnd := by
  cases h : s.cmdPending <;> simp [State.takeFrame, h]
@[simp] theorem State.takeFrame_opreg (s : State) : s.takeFrame.opreg = s.opreg := by
  cases h : s.cmdPending <;> simp [State.takeFrame, h]
@[simp] theorem State.takeFrame_obsen (s : State) : s.takeFrame.obsen = s.obsen := by
  cases h : s.cmdPending <;> simp [State.takeFrame, h]
@[simp] theorem State.takeFrame_sreg (s : State) : s.takeFrame.sreg = s.sreg := by
  cases h : s.cmdPending <;> simp [State.takeFrame, h]
@[simp] theorem State.takeFrame_keyreg (s : State) : s.takeFrame.keyreg = s.keyreg := by
  cases h : s.cmdPending <;> simp [State.takeFrame, h]
@[simp] theorem State.takeFrame_w (s : State) : s.takeFrame.w = s.w := by
  cases h : s.cmdPending <;> simp [State.takeFrame, h]
@[simp] theorem State.takeFrame_rk (s : State) : s.takeFrame.rk = s.rk := by
  cases h : s.cmdPending <;> simp [State.takeFrame, h]
@[simp] theorem State.takeFrame_out (s : State) : s.takeFrame.out = s.out := by
  cases h : s.cmdPending <;> simp [State.takeFrame, h]
@[simp] theorem State.takeFrame_rsp (s : State) : s.takeFrame.rsp = s.rsp := by
  simp [State.rsp]
@[simp] theorem State.takeFrame_obs (s : State) : s.takeFrame.obs = s.obs := by
  simp [State.obs]
@[simp] theorem State.takeFrame_rst (s : State) : s.takeFrame.rst = s.rst := by
  cases h : s.cmdPending <;> simp [State.takeFrame, h]
@[simp] theorem State.takeFrame_resetDraws (s : State) : s.takeFrame.resetDraws = s.resetDraws := by
  cases h : s.cmdPending <;> simp [State.takeFrame, h]

theorem State.takeFrame_of_cons (s : State) (f : Frame) (rest : List Frame) (h : s.cmdPending = f :: rest) :
    s.takeFrame = { s with cmdTaken := s.cmdTaken ++ [f], cmdPending := rest } := by
  simp [State.takeFrame, h]

@[simp] theorem State.takeFrame_cmdHistory (s : State) : s.takeFrame.cmdHistory = s.cmdHistory := by
  cases h : s.cmdPending <;> simp [State.takeFrame, State.cmdHistory, h]

/-! `runStage` -/

@[simp] theorem State.runStage_phase (s : State) (n : Nat) :
    (s.runStage n).phase = s.phase := by
  cases h : s.obsen <;> simp [State.runStage, h]
@[simp] theorem State.runStage_rnd (s : State) (n : Nat) :
    (s.runStage n).rnd = s.rnd := by
  cases h : s.obsen <;> simp [State.runStage, h]
@[simp] theorem State.runStage_opreg (s : State) (n : Nat) :
    (s.runStage n).opreg = s.opreg := by
  cases h : s.obsen <;> simp [State.runStage, h]
@[simp] theorem State.runStage_obsen (s : State) (n : Nat) :
    (s.runStage n).obsen = s.obsen := by
  cases h : s.obsen <;> simp [State.runStage, h]
@[simp] theorem State.runStage_sreg (s : State) (n : Nat) :
    (s.runStage n).sreg = stageOf s.opreg n s.sreg s.rk := by
  cases h : s.obsen <;> simp [State.runStage, h]
@[simp] theorem State.runStage_keyreg (s : State) (n : Nat) :
    (s.runStage n).keyreg = s.keyreg := by
  cases h : s.obsen <;> simp [State.runStage, h]
@[simp] theorem State.runStage_w (s : State) (n : Nat) :
    (s.runStage n).w = s.w := by
  cases h : s.obsen <;> simp [State.runStage, h]
@[simp] theorem State.runStage_rk (s : State) (n : Nat) :
    (s.runStage n).rk = s.rk := by
  cases h : s.obsen <;> simp [State.runStage, h]
@[simp] theorem State.runStage_cmdTaken (s : State) (n : Nat) :
    (s.runStage n).cmdTaken = s.cmdTaken := by
  cases h : s.obsen <;> simp [State.runStage, h]
@[simp] theorem State.runStage_cmdPending (s : State) (n : Nat) :
    (s.runStage n).cmdPending = s.cmdPending := by
  cases h : s.obsen <;> simp [State.runStage, h]
@[simp] theorem State.runStage_out (s : State) (n : Nat) :
    (s.runStage n).out =
      s.out ++ if s.obsen then [.event (eventFrame n (stageOf s.opreg n s.sreg s.rk).toList)] else [] := by
  cases h : s.obsen <;> simp [State.runStage, h]
@[simp] theorem State.runStage_rsp (s : State) (n : Nat) :
    (s.runStage n).rsp = s.rsp := by
  cases h : s.obsen <;> simp [State.rsp, Output.onRsp, h]
@[simp] theorem State.runStage_obs (s : State) (n : Nat) :
    (s.runStage n).obs = if s.obsen then s.obs ++ [eventFrame n (stageOf s.opreg n s.sreg s.rk).toList] else s.obs := by
  cases h : s.obsen <;> simp [State.obs, Output.onObs, h]
@[simp] theorem State.runStage_rst (s : State) (n : Nat) :
    (s.runStage n).rst = s.rst := by
  cases h : s.obsen <;> simp [State.runStage, h]
@[simp] theorem State.runStage_resetDraws (s : State) (n : Nat) :
    (s.runStage n).resetDraws = s.resetDraws := by
  cases h : s.obsen <;> simp [State.runStage, h]

/-! `endStage` -/

@[simp] theorem State.endStage_phase (s : State) (n : Nat) :
    (s.endStage n).phase = if n < 14 then s.phase else .idle := by
  by_cases h : n < 14 <;> simp [State.endStage, h]
@[simp] theorem State.endStage_rnd (s : State) (n : Nat) :
    (s.endStage n).rnd = if n < 14 then BitVec.ofNat 4 (n + 1) else s.rnd := by
  by_cases h : n < 14 <;> simp [State.endStage, h]
@[simp] theorem State.endStage_opreg (s : State) (n : Nat) :
    (s.endStage n).opreg = s.opreg := by
  by_cases h : n < 14 <;> simp [State.endStage, h]
@[simp] theorem State.endStage_obsen (s : State) (n : Nat) :
    (s.endStage n).obsen = s.obsen := by
  by_cases h : n < 14 <;> simp [State.endStage, h]
@[simp] theorem State.endStage_sreg (s : State) (n : Nat) :
    (s.endStage n).sreg = s.sreg := by
  by_cases h : n < 14 <;> simp [State.endStage, h]
@[simp] theorem State.endStage_keyreg (s : State) (n : Nat) :
    (s.endStage n).keyreg = s.keyreg := by
  by_cases h : n < 14 <;> simp [State.endStage, h]
@[simp] theorem State.endStage_w (s : State) (n : Nat) :
    (s.endStage n).w = s.w := by
  by_cases h : n < 14 <;> simp [State.endStage, h]
@[simp] theorem State.endStage_rk (s : State) (n : Nat) :
    (s.endStage n).rk = s.rk := by
  by_cases h : n < 14 <;> simp [State.endStage, h]
@[simp] theorem State.endStage_cmdTaken (s : State) (n : Nat) :
    (s.endStage n).cmdTaken = s.cmdTaken := by
  by_cases h : n < 14 <;> simp [State.endStage, h]
@[simp] theorem State.endStage_cmdPending (s : State) (n : Nat) :
    (s.endStage n).cmdPending = s.cmdPending := by
  by_cases h : n < 14 <;> simp [State.endStage, h]
@[simp] theorem State.endStage_out (s : State) (n : Nat) :
    (s.endStage n).out = s.out ++ if n < 14 then [] else [.response (responseFrame .ok s.sreg.toList)] := by
  by_cases h : n < 14 <;> simp [State.endStage, h]
@[simp] theorem State.endStage_rsp (s : State) (n : Nat) :
    (s.endStage n).rsp = if n < 14 then s.rsp else s.rsp ++ [responseFrame .ok s.sreg.toList] := by
  by_cases h : n < 14 <;> simp [State.rsp, Output.onRsp, h]
@[simp] theorem State.endStage_obs (s : State) (n : Nat) :
    (s.endStage n).obs = s.obs := by
  by_cases h : n < 14 <;> simp [State.obs, Output.onObs, h]
@[simp] theorem State.endStage_rst (s : State) (n : Nat) :
    (s.endStage n).rst = s.rst := by
  by_cases h : n < 14 <;> simp [State.endStage, h]
@[simp] theorem State.endStage_resetDraws (s : State) (n : Nat) :
    (s.endStage n).resetDraws = s.resetDraws := by
  by_cases h : n < 14 <;> simp [State.endStage, h]

end Sys2Proof.Machine
end

