-- ==== Sys2Proof/Laws/Ops.lean ====
section
/-! SUPPORT. What the shared operations can do, said once: the length checks, raising an error, and the frame of
a command step. -/

namespace Sys2Proof.Machine

theorem checkLengths_eq_none_iff (op : Op) (a b : List Byte) :
    checkLengths op a b = none ↔ a.length = lenA op ∧ b.length = lenB op := by
  unfold checkLengths
  by_cases ha : a.length = lenA op <;> by_cases hb : b.length = lenB op <;> simp [ha, hb]

theorem checkLengths_ok {op : Op} {a b : List Byte} (ha : a.length = lenA op) (hb : b.length = lenB op) :
    checkLengths op a b = none :=
  (checkLengths_eq_none_iff op a b).2 ⟨ha, hb⟩

theorem checkLengths_wrongA {op : Op} {a : List Byte} (b : List Byte) (ha : a.length ≠ lenA op) :
    checkLengths op a b = some (lenErrorA op) := by
  simp [checkLengths, ha]

theorem checkLengths_wrongB {op : Op} {a b : List Byte} (ha : a.length = lenA op) (hb : b.length ≠ lenB op) :
    checkLengths op a b = some (lenErrorB op) := by
  simp [checkLengths, ha, hb]

/-- Raising an error appends its response, with no result bytes, and does nothing else (R262). -/
theorem raise_eq (e : CommandError) (s : State) :
    raise e s = .next { s with out := s.out ++ [.response [e.code, 0x00]] } := rfl

/-- In `RUN` a command has no effect (log 11). -/
theorem command_run {s : State} (h : s.phase = .run) (op : Op) (a b : List Byte) (body : State → State) :
    command op a b body s = .next s := by
  simp [command, h]

theorem command_error {s : State} (h : s.phase = .idle) {op : Op} {a b : List Byte} {e : CommandError}
    (he : checkLengths op a b = some e) (body : State → State) : command op a b body s = raise e s := by
  simp [command, h, he]

theorem command_ok {s : State} (h : s.phase = .idle) {op : Op} {a b : List Byte}
    (he : checkLengths op a b = none) (body : State → State) : command op a b body s = .next (body s) := by
  simp [command, h, he]

/-- Everything a command step can do. -/
theorem command_cases (op : Op) (a b : List Byte) (body : State → State) (s : State) :
    (s.phase = .run ∧ command op a b body s = .next s) ∨
    (s.phase = .idle ∧ ∃ e, checkLengths op a b = some e ∧ command op a b body s = raise e s) ∨
    (s.phase = .idle ∧ checkLengths op a b = none ∧ command op a b body s = .next (body s)) := by
  cases hp : s.phase
  · cases he : checkLengths op a b with
    | none => exact .inr (.inr ⟨rfl, rfl, command_ok hp he body⟩)
    | some e => exact .inr (.inl ⟨rfl, e, rfl, command_error hp he body⟩)
  · exact .inl ⟨rfl, command_run hp op a b body⟩

/-- What a command does to the state once its operands have passed their checks. -/
def bodyOf (i : Instr) (s : State) : State :=
  match i with
  | .xtime a _ => s.emitRsp .ok [xtime (operandByte a 0)]
  | .gfmul a _ => s.emitRsp .ok [gfMul (operandByte a 0) (operandByte a 1)]
  | .subbyte a _ => s.emitRsp .ok [subByte (operandByte a 0)]
  | .invsubbyte a _ => s.emitRsp .ok [invSubByte (operandByte a 0)]
  | .expandkey _ b => (s.expandInto (Key.ofList b)).emitRsp .ok (roundKeyBytes (s.expandInto (Key.ofList b)).rk)
  | .subbytes a _ => s.transform a subBytes
  | .invsubbytes a _ => s.transform a invSubBytes
  | .shiftrows a _ => s.transform a shiftRows
  | .invshiftrows a _ => s.transform a invShiftRows
  | .mixcolumns a _ => s.transform a mixColumns
  | .invmixcolumns a _ => s.transform a invMixColumns
  | .addroundkey a b => s.transform a (addRoundKey · (Block.ofList b))
  | .encrypt o a b => s.acceptCipher .encrypt o a b
  | .decrypt o a b => s.acceptCipher .decrypt o a b

/-- Every command is one command step: `exec` says nothing else. -/
theorem exec_eq_command (i : Instr) (s : State) : exec i s = command i.op i.opA i.opB (bodyOf i) s := by
  cases i <;> rfl

end Sys2Proof.Machine
end

