-- ==== Sys2Proof/Laws/PerInstr.lean ====
section
/-! SUPPORT. Statements made for each constructor of `Instr`. `FrameLength`: the encoder's frame has the length
the header gives, `4 + BLEN + KLEN` bytes, between 4 and 514 (30_encoding.md rules R81, R89). -/

namespace Sys2Proof.Laws.FrameLength

def Statement (i : Instr) : Prop :=
  (encode i).length = 4 + i.opA.length + i.opB.length ∧ (i.WellFormed → (encode i).length ≤ 514)

/-- The frame is four header bytes and the two operands. -/
theorem of_any (i : Instr) : Statement i := by
  refine ⟨?_, fun h => ?_⟩
  · simp only [encode, List.length_cons, List.length_append]; omega
  · have := h.1; have := h.2
    simp only [encode, List.length_cons, List.length_append]; omega

theorem xtime (a b : List Byte) : Statement (.xtime a b) := of_any _
theorem gfmul (a b : List Byte) : Statement (.gfmul a b) := of_any _
theorem subbyte (a b : List Byte) : Statement (.subbyte a b) := of_any _
theorem invsubbyte (a b : List Byte) : Statement (.invsubbyte a b) := of_any _
theorem expandkey (a b : List Byte) : Statement (.expandkey a b) := of_any _
theorem subbytes (a b : List Byte) : Statement (.subbytes a b) := of_any _
theorem invsubbytes (a b : List Byte) : Statement (.invsubbytes a b) := of_any _
theorem shiftrows (a b : List Byte) : Statement (.shiftrows a b) := of_any _
theorem invshiftrows (a b : List Byte) : Statement (.invshiftrows a b) := of_any _
theorem mixcolumns (a b : List Byte) : Statement (.mixcolumns a b) := of_any _
theorem invmixcolumns (a b : List Byte) : Statement (.invmixcolumns a b) := of_any _
theorem addroundkey (a b : List Byte) : Statement (.addroundkey a b) := of_any _
theorem encrypt (obs : Bool) (a b : List Byte) : Statement (.encrypt obs a b) := of_any _
theorem decrypt (obs : Bool) (a b : List Byte) : Statement (.decrypt obs a b) := of_any _

end Sys2Proof.Laws.FrameLength
end

