-- ==== Sys2Proof/Laws/Step.lean ====
section
/-! SUPPORT. What one step can do, said once (60_exceptions.md R262; 70_reset_and_hazards.md R300;
44_block_cipher.md R226-R228). -/

namespace Sys2Proof.Machine

theorem step_reset {s : State} {m : ResetMoment} (h : s.rst = some m) : step s = resetStep m s := by
  simp [step, h]

/-- Reset acts at once when the core is idle, and at the moment `beforeStep`. -/
theorem resetStep_now {s : State} {m : ResetMoment} (h : m = .afterEvent → s.phase = .idle) :
    resetStep m s = .next s.applyReset := by
  cases m
  · rfl
  · simp [resetStep, h rfl]

/-- At the moment `afterEvent` in flight, the stage's event is emitted first. -/
theorem resetStep_afterEvent {s : State} (hp : s.phase = .run) (h : s.rnd.toNat ≤ 14) :
    resetStep .afterEvent s = .next (s.runStage s.rnd.toNat).applyReset := by
  simp [resetStep, stageThen, hp, h]

theorem resetStep_fifteen {s : State} (hp : s.phase = .run) (h : ¬ s.rnd.toNat ≤ 14) :
    resetStep .afterEvent s = .fault .stageOutOfRange := by
  simp [resetStep, stageThen, hp, h]

theorem step_stage {s : State} (hr : s.rst = none) (hp : s.phase = .run) : step s = stage s := by
  simp [step, hr, hp]

theorem step_wait {s : State} (hr : s.rst = none) (hp : s.phase = .idle) (hc : s.cmdPending = []) :
    step s = .next s := by
  simp [step, hr, hp, State.nextFrame, hc]

theorem step_exec {s : State} {f : Frame} {rest : List Frame} {i : Instr} (hr : s.rst = none)
    (hp : s.phase = .idle) (hc : s.cmdPending = f :: rest) (hd : decode f = .ok i) :
    step s = exec i s.takeFrame := by
  simp [step, hr, hp, State.nextFrame, hc, hd]

theorem step_illegal {s : State} {f : Frame} {rest : List Frame} (hr : s.rst = none) (hp : s.phase = .idle)
    (hc : s.cmdPending = f :: rest) (hd : decode f = .error .illegalCommand) :
    step s = raise .illegalCommand s.takeFrame := by
  simp [step, hr, hp, State.nextFrame, hc, hd]

theorem step_malformed {s : State} {f : Frame} {rest : List Frame} (hr : s.rst = none) (hp : s.phase = .idle)
    (hc : s.cmdPending = f :: rest) (hd : decode f = .error .shortHeader ∨ decode f = .error .payloadLength) :
    step s = .refused .malformedFrame := by
  rcases hd with hd | hd <;> simp [step, hr, hp, State.nextFrame, hc, hd]

theorem stage_ok {s : State} (h : s.rnd.toNat ≤ 14) :
    stage s = .next ((s.runStage s.rnd.toNat).endStage s.rnd.toNat) := by
  simp [stage, stageThen, h]

theorem stage_fifteen {s : State} (h : ¬ s.rnd.toNat ≤ 14) : stage s = .fault .stageOutOfRange := by
  simp [stage, stageThen, h]

/-- Everything a step that answers a next state can have done. -/
theorem step_next_cases {s t : State} (h : step s = .next t) :
    (∃ m, s.rst = some m ∧ (m = .afterEvent → s.phase = .idle) ∧ t = s.applyReset) ∨
    (s.rst = some .afterEvent ∧ s.phase = .run ∧ s.rnd.toNat ≤ 14 ∧
      t = (s.runStage s.rnd.toNat).applyReset) ∨
    (s.rst = none ∧ s.phase = .run ∧ s.rnd.toNat ≤ 14 ∧
      t = (s.runStage s.rnd.toNat).endStage s.rnd.toNat) ∨
    (s.rst = none ∧ s.phase = .idle ∧ s.cmdPending = [] ∧ t = s) ∨
    (s.rst = none ∧ s.phase = .idle ∧ ∃ f rest, s.cmdPending = f :: rest ∧
      ((∃ i, decode f = .ok i ∧ exec i s.takeFrame = .next t) ∨
        (decode f = .error .illegalCommand ∧ t = s.takeFrame.emitRsp (.error .illegalCommand) []))) := by
  cases hr : s.rst with
  | some m =>
    rw [step_reset hr] at h
    by_cases hm : m = .afterEvent → s.phase = .idle
    · rw [resetStep_now hm] at h; cases h; exact .inl ⟨m, rfl, hm, rfl⟩
    · obtain ⟨rfl, hp⟩ := Classical.not_imp.1 hm
      have hp : s.phase = .run := by cases h' : s.phase <;> simp_all
      by_cases hn : s.rnd.toNat ≤ 14
      · rw [resetStep_afterEvent hp hn] at h; cases h; exact .inr (.inl ⟨rfl, hp, hn, rfl⟩)
      · rw [resetStep_fifteen hp hn] at h; cases h
  | none =>
    cases hp : s.phase with
    | run =>
      by_cases hn : s.rnd.toNat ≤ 14
      · rw [step_stage hr hp, stage_ok hn] at h; cases h; exact .inr (.inr (.inl ⟨rfl, rfl, hn, rfl⟩))
      · rw [step_stage hr hp, stage_fifteen hn] at h; cases h
    | idle =>
      cases hc : s.cmdPending with
      | nil => rw [step_wait hr hp hc] at h; cases h; simp
      | cons f rest =>
        refine .inr (.inr (.inr (.inr ⟨rfl, rfl, f, rest, rfl, ?_⟩)))
        cases hd : decode f with
        | ok i => rw [step_exec hr hp hc hd] at h; exact .inl ⟨i, rfl, h⟩
        | error e =>
          cases e with
          | illegalCommand => rw [step_illegal hr hp hc hd, raise] at h; cases h; exact .inr ⟨rfl, rfl⟩
          | shortHeader => rw [step_malformed hr hp hc (.inl hd)] at h; cases h
          | payloadLength => rw [step_malformed hr hp hc (.inr hd)] at h; cases h

/-- The run of the host's interface, one step unfolded. -/
theorem run_succ {s t : State} (n : Nat) (h : step s = .next t) :
    Host.Core.run core (n + 1) s = Host.Core.run core n t := by
  simp only [Host.Core.run]; rw [show core.step s = .next t from h]

theorem run_zero (s : State) : Host.Core.run core 0 s = .next s := rfl

end Sys2Proof.Machine
end

