-- ==== Sys2Proof/Machine/Assembler.lean ====
section
/-! DEFINITION. The textual syntax of a command (30_encoding.md rule R95), `MNEMONIC[.OBS] [a=<hex>] [k=<hex>]`,
and the frame it spells. It is the spec's notation, used to write tests down; the core does not read text.
The suffix is allowed on every mnemonic, so a line may spell a frame that is an illegal command. -/

namespace Sys2Proof.Machine

/-- A lowercase hexadecimal digit (R95). -/
def hexDigit (c : Char) : Option Nat :=
  if '0'.toNat ≤ c.toNat ∧ c.toNat ≤ '9'.toNat then some (c.toNat - '0'.toNat)
  else if 'a'.toNat ≤ c.toNat ∧ c.toNat ≤ 'f'.toNat then some (c.toNat - 'a'.toNat + 10)
  else none

/-- A hex string, two digits per byte, byte 0 first; an odd number of digits spells nothing (R95). -/
def hexBytes : List Char → Option (List Byte)
  | [] => some []
  | [_] => none
  | h :: l :: rest =>
    match hexDigit h, hexDigit l, hexBytes rest with
    | some x, some y, some bytes => some (BitVec.ofNat 8 (16 * x + y) :: bytes)
    | _, _, _ => none

/-- The words of a line, separated by one space each. -/
def lineWords : List Char → List (List Char)
  | [] => [[]]
  | c :: rest =>
    match lineWords rest with
    | [] => [[c]]
    | word :: words => if c = ' ' then [] :: word :: words else (c :: word) :: words

/-- The operation of a mnemonic (R86). -/
def mnemonicOp (t : List Char) : Option Op :=
  (opcodeTable.find? fun r => r.op.mnemonic.toList == t).map (·.op)

/-- `MNEMONIC` or `MNEMONIC.OBS` (R95). -/
def mnemonicWord (t : List Char) : Option (Op × Bool) :=
  match mnemonicOp t with
  | some op => some (op, false)
  | none =>
    if t.drop (t.length - 4) = ['.', 'O', 'B', 'S'] then
      (mnemonicOp (t.take (t.length - 4))).map fun op => (op, true)
    else none

/-- `[a=<hex>] [k=<hex>]`; an omitted operand is empty (R95). -/
def operandWords : List (List Char) → Option (List Byte × List Byte)
  | [] => some ([], [])
  | [] :: _ => none
  | [('a' :: '=' :: h)] => (hexBytes h).map fun a => (a, [])
  | [('k' :: '=' :: h)] => (hexBytes h).map fun k => ([], k)
  | [('a' :: '=' :: h), ('k' :: '=' :: g)] =>
    match hexBytes h, hexBytes g with
    | some a, some k => some (a, k)
    | _, _ => none
  | _ => none

/-- The frame a line spells (R95, R81); none when the line is not of the syntax or an operand does not fit
its length field. -/
def assemble (line : List Char) : Option Frame :=
  match lineWords line with
  | [] => none
  | m :: operands =>
    match mnemonicWord m, operandWords operands with
    | some (op, obs), some (a, b) =>
      if a.length ≤ 255 ∧ b.length ≤ 255 then
        some (op.code :: (if obs then 0x01 else 0x00) :: BitVec.ofNat 8 a.length :: BitVec.ofNat 8 b.length
          :: (a ++ b))
      else none
    | _, _ => none

end Sys2Proof.Machine
end

