-- ==== Sys2Proof/Tests/Slice0.lean ====
section
/-! SUPPORT. The model's own tests. Every expected byte is from spec/: the worked encodings of 30_encoding.md
rule R97, the vectors V10-V63 of 95_test_vectors.md, the corner cases of the instruction rules. Then one witness
for each obligation that has hypotheses. -/

namespace Sys2Proof.Tests

-- One theorem after another: checked side by side, their stacks together pass the memory limit.
set_option Elab.async false

open Sys2Proof Sys2Proof.Machine

/-- The bytes of a hex string. -/
def bytes (t : String) : List Byte := (hexBytes t.toList).getD []

/-- The bytes `0, 1, .., n - 1`. -/
def seq (n : Nat) : List Byte := (List.range n).map (BitVec.ofNat 8)

/-- The frame a line of rule R95 spells. -/
def spelled (t : String) : Frame := (assemble t.toList).getD []

/-- The core after reset with one frame presented. -/
def present (f : Frame) : State := State.reset.hostPresent f

/-- The state after `n` steps, if none of them stops. -/
def after (n : Nat) (s : State) : Option State :=
  match Host.Core.run core n s with
  | .next t => some t
  | .fault _ => none
  | .refused _ => none

/-- The responses one step after a frame is presented. -/
def answers (f : Frame) : Option (List Frame) := (after 1 (present f)).map (·.rsp)

/-- A core with a cipher command in flight. -/
def running (op : Op) (obs : Bool) (n : BitVec 4) : State :=
  { State.reset with phase := .run, rnd := n, opreg := op, obsen := obs }

/-- The key of V1. -/
def keyV1 : List Byte := bytes "603deb1015ca71be2b73aef0857d77811f352c073b6108d72d9810a30914dff4"

/-- The plaintext of V1. -/
def plainV1 : List Byte := bytes "6bc1bee22e409f96e93d7e117393172a"

/-- The ciphertext of V1. -/
def cipherV1 : List Byte := bytes "f3eed1bdb5d2a03c064b5a7e3db181f8"

/-! ## Well-formedness refuses what no frame can carry -/

theorem test_wellFormed_refuses_operand_A_of_256_bytes :
    ¬ (Instr.encrypt false (List.replicate 256 0) (List.replicate 32 0)).WellFormed := by decide +kernel

theorem test_wellFormed_refuses_operand_B_of_256_bytes :
    ¬ (Instr.expandkey [] (List.replicate 256 0)).WellFormed := by decide +kernel

theorem test_wellFormed_allows_wrong_lengths : (Instr.xtime [1, 2, 3] [4]).WellFormed := by decide

/-! ## Decoding: a frame written out for every row of the opcode table (R81, R86, R97) -/

theorem test_decode_xtime : decode [0x01, 0x00, 0x01, 0x00, 0x57] = .ok (.xtime [0x57] []) := by decide +kernel

theorem test_decode_gfmul :
    decode [0x02, 0x00, 0x02, 0x00, 0x57, 0x83] = .ok (.gfmul [0x57, 0x83] []) := by decide +kernel

theorem test_decode_subbyte :
    decode [0x10, 0x00, 0x01, 0x00, 0x53] = .ok (.subbyte [0x53] []) := by decide +kernel

theorem test_decode_invsubbyte :
    decode [0x11, 0x00, 0x01, 0x00, 0xed] = .ok (.invsubbyte [0xed] []) := by decide +kernel

theorem test_decode_expandkey :
    decode (0x20 :: 0x00 :: 0x00 :: 0x20 :: seq 32) = .ok (.expandkey [] (seq 32)) := by decide +kernel

theorem test_decode_subbytes :
    decode (0x30 :: 0x00 :: 0x10 :: 0x00 :: seq 16) = .ok (.subbytes (seq 16) []) := by decide +kernel

theorem test_decode_invsubbytes :
    decode (0x31 :: 0x00 :: 0x10 :: 0x00 :: seq 16) = .ok (.invsubbytes (seq 16) []) := by decide +kernel

theorem test_decode_shiftrows :
    decode (0x32 :: 0x00 :: 0x10 :: 0x00 :: seq 16) = .ok (.shiftrows (seq 16) []) := by decide +kernel

theorem test_decode_invshiftrows :
    decode (0x33 :: 0x00 :: 0x10 :: 0x00 :: seq 16) = .ok (.invshiftrows (seq 16) []) := by decide +kernel

theorem test_decode_mixcolumns :
    decode (0x34 :: 0x00 :: 0x10 :: 0x00 :: seq 16) = .ok (.mixcolumns (seq 16) []) := by decide +kernel

theorem test_decode_invmixcolumns :
    decode (0x35 :: 0x00 :: 0x10 :: 0x00 :: seq 16) = .ok (.invmixcolumns (seq 16) []) := by decide +kernel

theorem test_decode_addroundkey :
    decode (0x36 :: 0x00 :: 0x10 :: 0x10 :: (seq 16 ++ plainV1)) = .ok (.addroundkey (seq 16) plainV1) := by
  decide +kernel

theorem test_decode_encrypt :
    decode (0x40 :: 0x01 :: 0x10 :: 0x20 :: (plainV1 ++ keyV1)) = .ok (.encrypt true plainV1 keyV1) := by
  decide +kernel

theorem test_decode_decrypt :
    decode (0x41 :: 0x00 :: 0x10 :: 0x20 :: (cipherV1 ++ keyV1)) = .ok (.decrypt false cipherV1 keyV1) := by
  decide +kernel

/-- V50's illegal headers, and R87's: unlisted opcodes, reserved bits, `OBS` on an operation without observer. -/
theorem test_decode_rejects_illegal :
    decode [0x00, 0x00, 0x00, 0x00] = .error .illegalCommand ∧
    decode (0xff :: 0x00 :: 0x10 :: 0x20 :: seq 48) = .error .illegalCommand ∧
    decode (0x42 :: 0x00 :: 0x10 :: 0x20 :: seq 48) = .error .illegalCommand ∧
    decode (0x40 :: 0x02 :: 0x10 :: 0x20 :: seq 48) = .error .illegalCommand ∧
    decode (0x40 :: 0x80 :: 0x10 :: 0x20 :: seq 48) = .error .illegalCommand ∧
    decode (0x40 :: 0x03 :: 0x0f :: 0x1f :: seq 46) = .error .illegalCommand ∧
    decode (0x30 :: 0x01 :: 0x10 :: 0x00 :: seq 16) = .error .illegalCommand ∧
    decode [0x01, 0x01, 0x01, 0x00, 0x57] = .error .illegalCommand := by decide +kernel

theorem test_decode_rejects_malformed :
    decode [0x01, 0x00, 0x01] = .error .shortHeader ∧
    decode [0x01, 0x00, 0x01, 0x00] = .error .payloadLength ∧
    decode [0x01, 0x00, 0x01, 0x00, 0x57, 0x57] = .error .payloadLength := by decide +kernel

/-- The header numbers of R97. -/
theorem test_headerWord : headerWord 0x40 0x01 0x10 0x20 = 0x40011020 ∧ headerWord 0x36 0x00 0x10 0x10 = 0x36001010 :=
  by decide +kernel

/-- The example of R95, the omitted operands, the suffix, and the odd number of digits. -/
theorem test_assemble :
    assemble "GFMUL a=5713".toList = some [0x02, 0x00, 0x02, 0x00, 0x57, 0x13] ∧
    assemble "XTIME.OBS a=57".toList = some [0x01, 0x01, 0x01, 0x00, 0x57] ∧
    assemble "EXPANDKEY k=0001".toList = some [0x20, 0x00, 0x00, 0x02, 0x00, 0x01] ∧
    assemble "XTIME a=5".toList = none ∧ assemble "NOP".toList = none := by decide +kernel

theorem test_decodeTableWord :
    decodeTableWord 32 0x01000100 = some (.xtime [0x00] []) ∧
    decodeTableWord 32 0x40010000 = some (.encrypt true [] []) ∧
    decodeTableWord 32 0x01010000 = none := by decide +kernel

theorem test_withFetchWord_runs_the_instruction :
    (after 1 (State.reset.withFetchWord 32 0x10000100)).map (·.rsp) = some [[0x00, 0x01, 0x63]] := by decide +kernel

/-! ## The commands answered in one step -/

theorem test_xtime :
    answers (spelled "XTIME a=57") = some [[0x00, 0x01, 0xae]] ∧
    answers (spelled "XTIME a=80") = some [[0x00, 0x01, 0x1b]] ∧
    answers (spelled "XTIME a=ff") = some [[0x00, 0x01, 0xe5]] := by decide +kernel

theorem test_gfmul :
    answers (spelled "GFMUL a=5783") = some [[0x00, 0x01, 0xc1]] ∧
    answers (spelled "GFMUL a=8080") = some [[0x00, 0x01, 0x9a]] ∧
    answers (spelled "GFMUL a=0bff") = some [[0x00, 0x01, 0xa3]] := by decide +kernel

theorem test_subbyte :
    answers (spelled "SUBBYTE a=53") = some [[0x00, 0x01, 0xed]] ∧
    answers (spelled "SUBBYTE a=c9") = some [[0x00, 0x01, 0xdd]] := by decide +kernel

theorem test_invsubbyte :
    answers (spelled "INVSUBBYTE a=ed") = some [[0x00, 0x01, 0x53]] ∧
    answers (spelled "INVSUBBYTE a=ff") = some [[0x00, 0x01, 0x7d]] := by decide +kernel

/-- V21: the length and rows 2, 3 and 14 of the response. -/
theorem test_expandkey :
    (answers (0x20 :: 0x00 :: 0x00 :: 0x20 :: seq 32)).map (·.map fun r =>
        (r.take 2, (r.drop 34).take 32, r.drop 226)) =
      some [(bytes "00f0", bytes "a573c29fa176c498a97fce93a572c09c1651a8cd0244beda1a5da4c10640bade",
        bytes "24fc79ccbf0979e9371ac23c6d68de36")] := by decide +kernel

/-- V20: words 8, 9, 12, 52 and 56 of the V1 key, one for each branch and the last of each. -/
theorem test_expandkey_words :
    (after 1 (present (encode (.expandkey [] keyV1)))).map (fun t =>
        [8, 9, 12, 52, 56].flatMap fun i => (wordAt t.w i).toList) =
      some (bytes "9ba354118e6925afa8b09c1acafaaae3fe4890d1") := by decide +kernel

theorem test_subbytes :
    answers (spelled "SUBBYTES a=000102030405060708090a0b0c0d0e0f") =
      some [bytes "0010637c777bf26b6fc53001672bfed7ab76"] := by decide +kernel

theorem test_invsubbytes :
    answers (spelled "INVSUBBYTES a=000102030405060708090a0b0c0d0e0f") =
      some [bytes "001052096ad53036a538bf40a39e81f3d7fb"] := by decide +kernel

theorem test_shiftrows :
    answers (spelled "SHIFTROWS a=000102030405060708090a0b0c0d0e0f") =
      some [bytes "001000050a0f04090e03080d02070c01060b"] := by decide +kernel

theorem test_invshiftrows :
    answers (spelled "INVSHIFTROWS a=000102030405060708090a0b0c0d0e0f") =
      some [bytes "0010000d0a0704010e0b0805020f0c090603"] := by decide +kernel

theorem test_mixcolumns :
    answers (spelled "MIXCOLUMNS a=db135345f20a225c01010101c6c6c6c6") =
      some [bytes "00108e4da1bc9fdc589d01010101c6c6c6c6"] := by decide +kernel

theorem test_invmixcolumns :
    answers (spelled "INVMIXCOLUMNS a=000102030405060708090a0b0c0d0e0f") =
      some [bytes "00100a0f080d0e0b0c090207000506030401"] := by decide +kernel

theorem test_addroundkey :
    answers (spelled "ADDROUNDKEY a=6bc1bee22e409f96e93d7e117393172a k=603deb1015ca71be2b73aef0857d7781") =
      some [bytes "00100bfc55f23b8aee28c24ed0e1f6ee60ab"] := by decide +kernel

/-- The register effect of R180 and R36: `S` is the result, `RK` is not touched. -/
theorem test_addroundkey_writes_S_only :
    (after 1 (present (spelled
        "ADDROUNDKEY a=000102030405060708090a0b0c0d0e0f k=ffffffffffffffffffffffffffffffff"))).map
      (fun t => (t.sreg.toList, t.rk)) = some (bytes "fffefdfcfbfaf9f8f7f6f5f4f3f2f1f0", State.reset.rk) := by
  decide +kernel

/-! ## The cipher commands -/

/-- V1 and V2 on the machine: the response, and events 0, 1 and 14, after 16 steps. -/
theorem test_encrypt_V1 :
    (after 16 (present (encode (.encrypt true plainV1 keyV1)))).map (fun t =>
        (t.rsp, t.obs.length, t.obs.take 2, t.obs.getLast?)) =
      some ([0x00 :: 0x10 :: cipherV1], 15,
        [bytes "000bfc55f23b8aee28c24ed0e1f6ee60ab", bytes "01d9103fb0cc3ffe1cd7c6a27096ad6e41"],
        some (0x0e :: cipherV1)) := by decide +kernel

/-- V1 and V3 on the machine: the response, and events 0, 1 and 14, after 16 steps. -/
theorem test_decrypt_V1 :
    (after 16 (present (encode (.decrypt true cipherV1 keyV1)))).map (fun t =>
        (t.rsp, t.obs.length, t.obs.take 2, t.obs.getLast?)) =
      some ([0x00 :: 0x10 :: plainV1], 15,
        [bytes "000da6416c53ca2d370226a93a4ddde2e6", bytes "01fdbc5552d92bf29257c20201db848163"],
        some (0x0e :: plainV1)) := by decide +kernel

/-- ACCEPT emits nothing, latches the operands and starts at stage 0 (R226). -/
theorem test_encrypt_accept :
    (after 1 (present (encode (.encrypt false plainV1 keyV1)))).map (fun t =>
        (t.phase, t.rnd.toNat, t.rsp ++ t.obs, t.sreg.toList ++ t.keyreg.toList)) =
      some (Phase.run, 0, [], plainV1 ++ keyV1) := by decide +kernel

/-- Before stage 14 there is no response, and without the observer no event (R227). -/
theorem test_encrypt_before_stage_14 :
    (after 15 (present (encode (.encrypt false plainV1 keyV1)))).map (fun t =>
        (t.phase, t.rnd.toNat, t.rsp ++ t.obs)) = some (Phase.run, 14, []) := by decide +kernel

/-- V42's all-ones decryption. -/
theorem test_decrypt_ones :
    (decryptBlock (Block.ofList (List.replicate 16 0xff)) (Key.ofList (List.replicate 32 0xff))).toList =
      bytes "f21e61dedb4b646220dfa009563fbcfc" := by decide +kernel

/-! ## Errors -/

/-- V24, V37, V50: the length errors, `A` before `B`. -/
theorem test_length_errors :
    answers (0x20 :: 0x00 :: 0x00 :: 0x1f :: seq 31) = some [[0x01, 0x00]] ∧
    answers (0x20 :: 0x00 :: 0x01 :: 0x1f :: seq 32) = some [[0x81, 0x00]] ∧
    answers (0x32 :: 0x00 :: 0x0f :: 0x00 :: seq 15) = some [[0x81, 0x00]] ∧
    answers (0x36 :: 0x00 :: 0x10 :: 0x20 :: seq 48) = some [[0x81, 0x00]] ∧
    answers (0x40 :: 0x00 :: 0x0f :: 0x20 :: seq 47) = some [[0x02, 0x00]] ∧
    answers (0x40 :: 0x01 :: 0x10 :: 0x21 :: seq 49) = some [[0x01, 0x00]] ∧
    answers (0x41 :: 0x00 :: 0x11 :: 0x21 :: seq 50) = some [[0x02, 0x00]] := by decide +kernel

/-- V24, V50: an illegal header is answered before any length is looked at. -/
theorem test_illegal_commands :
    answers [0x00, 0x00, 0x00, 0x00] = some [[0x80, 0x00]] ∧
    answers (0x20 :: 0x01 :: 0x00 :: 0x20 :: seq 32) = some [[0x80, 0x00]] ∧
    answers (0x40 :: 0x03 :: 0x0f :: 0x1f :: seq 46) = some [[0x80, 0x00]] := by decide +kernel

/-- The state after a reset at moment `m`, `n` steps into the V1 encryption with the observer. -/
def resetInV1 (n : Nat) (m : ResetMoment) : Option State :=
  (after n (present (encode (.encrypt true plainV1 keyV1)))).bind fun t => after 1 (t.hostReset m)

/-- R300, R302: reset in flight abandons the command, keeps the events emitted, and gives no response: no event
just after ACCEPT, and at the other end all 15. -/
theorem test_reset_in_flight :
    ([(1, .beforeStep, 0), (3, .beforeStep, 2), (3, .afterEvent, 3), (15, .afterEvent, 15)] :
      List (Nat × ResetMoment × Nat)).all (fun (n, m, events) =>
        (resetInV1 n m).any fun t =>
          decide (t.phase = .idle) && t.rnd == 0 && t.rsp.isEmpty && t.obs.length == events) = true := by
  decide +kernel

/-- R245: event 14 is appended before the response, which is the last output. -/
theorem test_event_14_precedes_the_response :
    (after 16 (present (encode (.encrypt true plainV1 keyV1)))).map (fun t => (t.out.length, t.out.drop 14)) =
      some (16, [.event (0x0e :: cipherV1), .response (0x00 :: 0x10 :: cipherV1)]) := by decide +kernel

/-! ## Witnesses: for each obligation with hypotheses, a concrete input that meets them -/

/-- A frame with both operands of the greatest length, 255 bytes. -/
def longFrame (op flags : Byte) : Frame := op :: flags :: 0xff :: 0xff :: List.replicate 510 0x5a

/-- The core after reset has decoded `f` to `i` as its next frame. -/
def nextIs (s : State) (f : Frame) (i : Instr) : Bool :=
  s.rst == none && decide (s.phase = .idle) && decide (s.cmdPending = [f]) && decide (decode f = .ok i)

theorem witness_DecodeOfEncodeIsTheCommand :
    (Instr.encrypt true (List.replicate 255 0x5a) (List.replicate 255 0xa5)).WellFormed ∧
      (Instr.gfmul [] []).WellFormed := by decide +kernel

theorem witness_EncodeOfDecodeIsTheFrame :
    decode (longFrame 0x41 0x01) = .ok (.decrypt true (List.replicate 255 0x5a) (List.replicate 255 0x5a)) := by
  decide +kernel

theorem witness_OpcodeRowsExclusive :
    (⟨.encrypt, 0xFFFE0000, 0x40000000⟩ : OpcodeRow) ∈ opcodeTable ∧
      (⟨.encrypt, 0xFFFE0000, 0x40000000⟩ : OpcodeRow).selects 0x4001FFFF = true := by decide +kernel

theorem witness_IllegalEncodingsExactly :
    (List.replicate 510 (0x5a : Byte)).length = (0xff : Byte).toNat + (0xff : Byte).toNat ∧
      ([] : List Byte).length = (0x00 : Byte).toNat + (0x00 : Byte).toNat := by decide +kernel

theorem witness_OperandsAreThePayloadInOrder :
    decode (0x36 :: 0x00 :: 0x01 :: 0x02 :: seq 3) = .ok (.addroundkey [0x00] [0x01, 0x02]) := by decide +kernel

theorem witness_StepRunsTheDecodedCommand :
    nextIs (present [0x10, 0x00, 0x01, 0x00, 0x53]) [0x10, 0x00, 0x01, 0x00, 0x53] (.subbyte [0x53] []) = true := by
  decide +kernel

/-- One frame for each of the three reasons, and the highest payload length. -/
theorem witness_StepAnswersIllegalCommand :
    (present (longFrame 0x42 0x00)).rst = none ∧ (present (longFrame 0x42 0x00)).phase = .idle ∧
    (present (longFrame 0x42 0x00)).cmdPending = [longFrame 0x42 0x00] ∧
    (List.replicate 510 (0x5a : Byte)).length = (0xff : Byte).toNat + (0xff : Byte).toNat ∧
    (0x42 : Byte) ∉ ([0x01, 0x02, 0x10, 0x11, 0x20, 0x30, 0x31, 0x32, 0x33, 0x34, 0x35, 0x36, 0x40, 0x41] : List Byte) ∧
    (0x80 : Byte) &&& 0xFE ≠ 0 ∧ (0x02 : Byte) &&& 0xFE ≠ 0 ∧
    ((0x01 : Byte).getLsbD 0 = true ∧ (0x36 : Byte) ≠ 0x40 ∧ (0x36 : Byte) ≠ 0x41) := by decide +kernel

theorem witness_OnlyMalformedFramesAreRefused :
    (present [0x01, 0x00, 0x01, 0x00]).rst = none ∧ (present [0x01, 0x00, 0x01, 0x00]).phase = .idle ∧
      (present [0x01, 0x00, 0x01, 0x00]).cmdPending = [0x01, 0x00, 0x01, 0x00] :: [] ∧
      frameComplete [0x01, 0x00, 0x01, 0x00] = false ∧ frameComplete [0x01, 0x00, 0x01, 0x00, 0x57, 0x57] = false ∧
      frameComplete [0x01, 0x00, 0x01] = false := by decide

theorem witness_IdleCoreWaits :
    State.reset.rst = none ∧ State.reset.phase = .idle ∧ State.reset.cmdPending = [] := by decide

theorem witness_ResetAbandonsAndAltersNoChannel :
    ((running .encrypt true 15).hostReset .beforeStep).rst = some .beforeStep ∧
      ((running .encrypt true 14).hostReset .afterEvent).rst = some .afterEvent ∧
      ((running .encrypt true 14).hostReset .afterEvent).phase = .run ∧
      ((running .encrypt true 14).hostReset .afterEvent).rnd.toNat ≤ 14 := by decide

theorem witness_FramesWaitWhileRunning :
    (running .encrypt true 0).phase = .run ∧ ∃ t, step (running .encrypt true 0) = .next t :=
  ⟨rfl, _, (step_stage rfl rfl).trans (stage_ok (by decide))⟩

/-- The hypotheses of `CommandMeaning` for one operation: operands one byte too long, one byte too short, and
right, and frames with each end of `FLAGS` set. -/
def commandWitness (code : Byte) (la lb : Nat) : Bool :=
  decide (State.reset.phase = .idle) && (seq (la + 1)).length != la && (la == 0 || (seq (la - 1)).length != la) &&
    (seq la).length == la && (seq (lb + 1)).length != lb && (lb == 0 || (seq (lb - 1)).length != lb) &&
    (seq lb).length == lb &&
    ([0x01, 0x80] : List Byte).all fun flags =>
      flags != 0x00 && (present [code, flags, 0x00, 0x00]).rst == none &&
        decide ((present [code, flags, 0x00, 0x00]).cmdPending = [code :: flags :: 0x00 :: 0x00 :: []])

theorem witness_XtimeMeaning : commandWitness 0x01 1 0 = true := by decide +kernel
theorem witness_GfmulMeaning : commandWitness 0x02 2 0 = true := by decide +kernel
theorem witness_SubbyteMeaning : commandWitness 0x10 1 0 = true := by decide +kernel
theorem witness_InvsubbyteMeaning : commandWitness 0x11 1 0 = true := by decide +kernel
theorem witness_ExpandkeyMeaning : commandWitness 0x20 0 32 = true := by decide +kernel
theorem witness_SubbytesMeaning : commandWitness 0x30 16 0 = true := by decide +kernel
theorem witness_InvsubbytesMeaning : commandWitness 0x31 16 0 = true := by decide +kernel
theorem witness_ShiftrowsMeaning : commandWitness 0x32 16 0 = true := by decide +kernel
theorem witness_InvshiftrowsMeaning : commandWitness 0x33 16 0 = true := by decide +kernel
theorem witness_MixcolumnsMeaning : commandWitness 0x34 16 0 = true := by decide +kernel
theorem witness_InvmixcolumnsMeaning : commandWitness 0x35 16 0 = true := by decide +kernel
theorem witness_AddroundkeyMeaning : commandWitness 0x36 16 16 = true := by decide +kernel

/-- One input for each clause, at both sides of 16 and of 32. -/
theorem witness_CipherAccept :
    State.reset.phase = .idle ∧ (seq 15).length ≠ 16 ∧ (seq 17).length ≠ 16 ∧ (seq 16).length = 16 ∧
      (seq 31).length ≠ 32 ∧ (seq 33).length ≠ 32 ∧ (seq 32).length = 32 := by decide +kernel

/-- The first stage, the first and last full rounds, and the final stage, in both directions. -/
theorem witness_StageStep :
    ([0, 1, 13, 14] : List (BitVec 4)).all fun n => [Op.encrypt, Op.decrypt].all fun op =>
      [true, false].all fun obs =>
        (running op obs n).rst == none && decide ((running op obs n).phase = .run) &&
          decide ((running op obs n).rnd.toNat ≤ 14) := by decide +kernel

theorem witness_OnlyStageFifteenFaults :
    (running .encrypt false 15).rst ≠ some .beforeStep ∧
      ((running .encrypt false 15).hostReset .afterEvent).rst ≠ some .beforeStep ∧
      (running .encrypt false 15).phase = .run ∧ (running .encrypt false 15).rnd = 15 := by decide

theorem witness_XtimeLaws : xtime 0x8d = xtime 0x8d := rfl

theorem witness_FieldLaws : (0x02 : Byte) ≠ 0x00 ∧ gfMul 0x02 0x8d = 0x01 := by decide +kernel

theorem witness_SboxIsAffineOfInverse : (0x00 : Byte) = 0 ∧ (0xff : Byte) ≠ 0 ∧ 0 < 8 ∧ 7 < 8 := by decide

/-- The ends of the two ranges, and one word index for each branch. -/
theorem witness_KeyScheduleRecurrence :
    0 < 8 ∧ 7 < 8 ∧ (8 ≤ 8 ∧ 8 < 60 ∧ 8 % 8 = 0) ∧ (8 ≤ 12 ∧ 12 < 60 ∧ 12 % 8 = 4) ∧
      (8 ≤ 59 ∧ 59 < 60 ∧ 59 % 8 ≠ 0 ∧ 59 % 8 ≠ 4) := by decide

theorem witness_RoundKeysAreSlicesOfTheWords : 0 < 15 ∧ 14 < 15 := by decide

theorem witness_TwoRoundKeysDetermineTheKey :
    0 < 7 ∧ 6 < 7 ∧ roundKey (expandKey Key.zero) (2 * 6) = roundKey (expandKey Key.zero) (2 * 6) ∧
      roundKey (expandKey Key.zero) (2 * 6 + 1) = roundKey (expandKey Key.zero) (2 * 6 + 1) :=
  ⟨by decide, by decide, rfl, rfl⟩

theorem witness_EventRelations : 0 ≤ 13 ∧ 13 ≤ 13 ∧ 1 ≤ 14 := by decide

/-- The V1 encryption with the observer, as a frame. -/
def frameV1 : Frame := encode (.encrypt true plainV1 keyV1)

theorem decode_frameV1 : decode frameV1 = .ok (.encrypt true plainV1 keyV1) := by decide +kernel

theorem validCipher_V1 (o : Bool) : ValidCipher (.encrypt o plainV1 keyV1) :=
  ⟨.inl rfl, show plainV1.length = 16 by decide +kernel, show keyV1.length = 32 by decide +kernel⟩

/-- Both clauses: a command with 15 events, and one without the observer, and one with a wrong length. -/
theorem witness_FifteenEventsOrNone :
    (ValidCipher (.encrypt true plainV1 keyV1) ∧ (Instr.encrypt true plainV1 keyV1).obs = true) ∧
    ¬(ValidCipher (.encrypt false plainV1 keyV1) ∧ (Instr.encrypt false plainV1 keyV1).obs = true) ∧
    ¬(ValidCipher (.encrypt true [] keyV1) ∧ (Instr.encrypt true [] keyV1).obs = true) :=
  ⟨⟨validCipher_V1 true, rfl⟩, fun h => absurd h.2 (by decide), fun h => absurd h.1.2.1 (by decide)⟩

theorem witness_EveryFrameIsAnsweredAsTheBigStepSays :
    (present frameV1).rst = none ∧ (present frameV1).phase = .idle ∧ (present frameV1).cmdPending = [frameV1] ∧
      frameComplete frameV1 = true ∧ frameComplete [0x00, 0x00, 0x00, 0x00] = true := by decide +kernel

theorem witness_EventsComeBeforeTheResponse :
    nextIs (present frameV1) frameV1 (.encrypt true plainV1 keyV1) = true ∧
      ValidCipher (.encrypt true plainV1 keyV1) ∧ 0 ≤ 14 ∧ 14 ≤ 14 :=
  ⟨by decide +kernel, validCipher_V1 true, by decide, by decide⟩

theorem witness_EveryQueueIsAnsweredInOrder :
    ((present frameV1).hostPresent [0xff, 0x00, 0x00, 0x00]).rst = none ∧
      ((present frameV1).hostPresent [0xff, 0x00, 0x00, 0x00]).phase = .idle ∧
      ((present frameV1).hostPresent [0xff, 0x00, 0x00, 0x00]).cmdPending.length = 2 ∧
      ((present frameV1).hostPresent [0xff, 0x00, 0x00, 0x00]).FramesComplete :=
  ⟨rfl, rfl, rfl, by unfold State.FramesComplete; decide +kernel⟩

/-- The V1 encryption is presented, and then the decryption of its ciphertext. -/
def bothWaysV1 : State :=
  (present (encode (.encrypt true plainV1 keyV1))).hostPresent (encode (.decrypt false cipherV1 keyV1))

theorem witness_MachineDecryptsWhatItEncrypts :
    plainV1.length = 16 ∧ keyV1.length = 32 ∧
      (encryptBlock (Block.ofList plainV1) (Key.ofList keyV1)).toList = cipherV1 ∧
      bothWaysV1.rst = none ∧ bothWaysV1.phase = .idle ∧
      bothWaysV1.cmdPending =
        encode (.encrypt true plainV1 keyV1) :: encode (.decrypt false cipherV1 keyV1) :: [] := by
  decide +kernel

/-- The core after the ACCEPT step of the V1 encryption. -/
def acceptedV1 : State := { State.reset with cmdTaken := [frameV1] }.acceptCipher .encrypt true plainV1 keyV1

theorem inFlight_acceptedV1 : acceptedV1.InFlight (.encrypt true plainV1 keyV1) :=
  ⟨validCipher_V1 true, rfl, rfl, rfl, rfl, by decide, rfl⟩

theorem witness_StepKeepsHistoryAgreement :
    acceptedV1.phase = .run ∧ acceptedV1.HistoryAgrees ∧ acceptedV1.HostNeverResetsBusy ∧
      ∃ t, step acceptedV1 = .next t :=
  ⟨rfl,
    ⟨fun h => absurd h (by decide), fun _ => ⟨[], frameV1, _, rfl, decode_frameV1, inFlight_acceptedV1, rfl⟩⟩,
    fun h => absurd rfl h, _, (step_stage rfl rfl).trans (stage_ok (by decide))⟩

theorem witness_HistoryAgreementAtResetAndUnderTheHost :
    State.reset.HistoryAgrees ∧ State.reset.HostNeverResetsBusy ∧ State.reset.phase = .idle :=
  ⟨⟨fun _ => rfl, fun h => absurd h (by decide)⟩, fun _ => rfl, rfl⟩

/-- In flight at the last stage, with reset applied, and a frame waiting. -/
theorem witness_StepNeverStopsAndKeepsSequencing :
    (((running .decrypt true 14).hostPresent frameV1).hostReset .afterEvent).SequencingLegal ∧
      (((running .decrypt true 14).hostPresent frameV1).hostReset .afterEvent).FramesComplete :=
  ⟨fun _ => ⟨by decide, .inr rfl⟩, by unfold State.FramesComplete; decide +kernel⟩

theorem witness_StepKeepsChannelsLegal :
    (present [0xff, 0x00, 0x00, 0x00]).ChannelsLegal ∧ ∃ t, step (present [0xff, 0x00, 0x00, 0x00]) = .next t :=
  ⟨fun _ h => absurd h List.not_mem_nil, _, step_illegal rfl rfl rfl (by decide +kernel)⟩

theorem witness_ChannelsAreAppendOnly : ∃ t, step acceptedV1 = .next t :=
  ⟨_, (step_stage rfl rfl).trans (stage_ok (by decide))⟩

theorem witness_CommandsWriteOnlyTheirRegisters :
    State.reset.phase = .idle ∧ Op.xtime ∈ [Op.xtime, .gfmul, .subbyte, .invsubbyte, .expandkey] ∧
      Op.addroundkey ∉ [Op.expandkey, .encrypt, .decrypt] ∧ Op.expandkey ∉ [Op.encrypt, .decrypt] ∧
      ∃ t, exec (.xtime [0x57] []) State.reset = .next t :=
  ⟨rfl, by decide, by decide, by decide, _, rfl⟩

theorem witness_StagesLeaveKeyMaterialUnchanged :
    acceptedV1.phase = .run ∧ acceptedV1.rst = none ∧ ∃ t, step acceptedV1 = .next t :=
  ⟨rfl, rfl, _, (step_stage rfl rfl).trans (stage_ok (by decide))⟩

/-- Two idle cores that differ in every working register and in `RND`, and a run of 16 steps. -/
theorem witness_LeftoversAreNeverSeen :
    (present frameV1).phase = .idle ∧
      (present frameV1).SameChannels { acceptedV1 with
        phase := .idle, rnd := 14, cmdTaken := [], cmdPending := [frameV1] } ∧
      (after 16 (present frameV1)).isSome = true :=
  ⟨rfl, ⟨rfl, rfl, rfl, rfl, rfl⟩, by decide +kernel⟩

theorem witness_ObserverNeverChangesResponses :
    (present frameV1).phase = .idle ∧ withoutObserver frameV1 = encode (.encrypt false plainV1 keyV1) ∧
      (after 16 (present frameV1)).isSome = true :=
  ⟨rfl, by decide +kernel, by decide +kernel⟩

theorem witness_InstancesAreIndependent :
    (0 : Nat) ≠ 1 ∧ ∃ sys', System.stepAt [State.reset, State.reset] 0 = some sys' := ⟨by decide, _, rfl⟩

/-- Both ends of the range of stages, and both moments. -/
theorem witness_ResetInFlightLeavesZeroToFifteenEvents :
    nextIs (present frameV1) frameV1 (.encrypt true plainV1 keyV1) = true ∧
      ValidCipher (.encrypt true plainV1 keyV1) ∧ 0 ≤ 14 ∧ 14 ≤ 14 ∧
      (if ResetMoment.afterEvent = .afterEvent then 14 + 1 else 14) = 15 ∧
      (if ResetMoment.beforeStep = .afterEvent then 0 + 1 else 0) = 0 :=
  ⟨by decide +kernel, validCipher_V1 true, by decide, by decide, rfl, rfl⟩

end Sys2Proof.Tests
end

section
/-! The facts about commands and steps on which the claims about the state rest: what a command's body leaves
unchanged and emits, when a step stops, and what it does to the channels. -/

namespace Sys2Proof.Machine

/-! ## An expansion does not read the old buffer (42_key_schedule.md R151, R154) -/

/-- The two buffers hold the same words below index `n`. -/
def AgreeBelow (n : Nat) (w w' : WordBuffer) : Prop := ∀ j < n, wordAt w j = wordAt w' j

theorem wordAt_setIfInBounds_same {w : WordBuffer} {i : Nat} (hi : i < 60) (x : Word) :
    wordAt (w.setIfInBounds i x) i = x := by
  simp [wordAt, hi]

theorem wordAt_setIfInBounds_ne {w : WordBuffer} {i j : Nat} (h : i ≠ j) (x : Word) :
    wordAt (w.setIfInBounds i x) j = wordAt w j := by
  simp [wordAt, Vector.getElem?_setIfInBounds_ne, h]

theorem wordBuffer_ext {w w' : WordBuffer} (h : AgreeBelow 60 w w') : w = w' := by
  refine Vector.ext fun j hj => ?_
  simpa [wordAt, hj] using h j hj

theorem loadKey_agreeBelow (w w' : WordBuffer) (k : Key) : AgreeBelow 8 (loadKey w k) (loadKey w' k) := by
  intro j hj
  have hj60 : j < 60 := by omega
  interval_cases j <;> simp [loadKey, wordAt]

theorem generateWord_agreeBelow {w w' : WordBuffer} {i : Nat} (hlow : 8 ≤ i) (hhigh : i < 60)
    (h : AgreeBelow i w w') : AgreeBelow (i + 1) (generateWord w i) (generateWord w' i) := by
  intro j hj
  by_cases hij : i = j
  · subst hij
    have hprev : wordAt w (i - 1) = wordAt w' (i - 1) := h _ (by omega)
    have hback : wordAt w (i - 8) = wordAt w' (i - 8) := h _ (by omega)
    simp only [generateWord, scheduleTemp, wordAt_setIfInBounds_same hhigh, hprev, hback]
  · simpa only [generateWord, wordAt_setIfInBounds_ne hij] using h j (by omega)

theorem generateWords_agreeBelow {n i : Nat} {w w' : WordBuffer} (hlow : 8 ≤ i) (hhigh : i + n ≤ 60)
    (h : AgreeBelow i w w') : AgreeBelow (i + n) (generateWords n i w) (generateWords n i w') := by
  induction n generalizing i w w' with
  | zero => exact h
  | succ n ih =>
    have hstep := ih (by omega) (by omega) (generateWord_agreeBelow hlow (by omega) h)
    rwa [Nat.add_right_comm] at hstep

theorem fillWords_eq_of_any_buffer (w w' : WordBuffer) (k : Key) : fillWords w k = fillWords w' k :=
  wordBuffer_ext (generateWords_agreeBelow (n := 52) (Nat.le_refl 8) (Nat.le_refl 60) (loadKey_agreeBelow w w' k))

theorem sliceRoundKeys_fillWords (w : WordBuffer) (k : Key) : sliceRoundKeys (fillWords w k) = expandKey k :=
  congrArg sliceRoundKeys (fillWords_eq_of_any_buffer w _ k)

/-! ## Complete frames are the ones that are not malformed (30_encoding.md R81, R88) -/

theorem headerBlen_headerWord (op flags blen klen : Byte) :
    headerBlen (headerWord op flags blen klen) = blen.toNat := by
  rw [headerBlen, headerWord, BitVec.extractLsb'_append_eq_of_le (Nat.le_refl 8), Nat.sub_self,
    BitVec.extractLsb'_append_eq_right]

theorem headerKlen_headerWord (op flags blen klen : Byte) :
    headerKlen (headerWord op flags blen klen) = klen.toNat := by
  rw [headerKlen, headerWord, BitVec.extractLsb'_append_eq_right]

theorem decode_malformed_iff (f : Frame) :
    (decode f = .error .shortHeader ∨ decode f = .error .payloadLength) ↔ frameComplete f = false := by
  rcases f with _ | ⟨op, _ | ⟨flags, _ | ⟨blen, _ | ⟨klen, payload⟩⟩⟩⟩
  case cons.cons.cons.cons =>
    simp only [decode, frameComplete, headerBlen_headerWord, headerKlen_headerWord]
    by_cases hlen : payload.length = blen.toNat + klen.toNat
    · cases headerOp (headerWord op flags blen klen) <;> simp [hlen]
    · simp [hlen]
  all_goals simp [decode, frameComplete]

/-! ## What a command's body writes and leaves (10_state.md R36) -/

@[simp] theorem bodyOf_cmdTaken (i : Instr) (s : State) : (bodyOf i s).cmdTaken = s.cmdTaken := by
  cases i <;> rfl
@[simp] theorem bodyOf_cmdPending (i : Instr) (s : State) : (bodyOf i s).cmdPending = s.cmdPending := by
  cases i <;> rfl
@[simp] theorem bodyOf_rst (i : Instr) (s : State) : (bodyOf i s).rst = s.rst := by
  cases i <;> rfl
@[simp] theorem bodyOf_resetDraws (i : Instr) (s : State) : (bodyOf i s).resetDraws = s.resetDraws := by
  cases i <;> rfl

/-- Only the cipher commands start a run (44_block_cipher.md R226). -/
@[simp] theorem bodyOf_phase (i : Instr) (s : State) :
    (bodyOf i s).phase = if i.op = .encrypt ∨ i.op = .decrypt then .run else s.phase := by
  cases i <;> rfl

/-- A cipher command emits nothing in its first step, every other command its response (R226, R228). -/
@[simp] theorem bodyOf_out (i : Instr) (s : State) :
    (bodyOf i s).out = s.out ++
      if i.op = .encrypt ∨ i.op = .decrypt then [] else [.response (responseFrame .ok (commandResult i))] := by
  cases i with
  | encrypt | decrypt => exact (List.append_nil s.out).symm
  | expandkey a b => simp [bodyOf, sliceRoundKeys_fillWords, commandResult, Instr.op]
  | _ => rfl

theorem bodyOf_sreg {i : Instr} (h : i.op ∈ [Op.xtime, .gfmul, .subbyte, .invsubbyte, .expandkey]) (s : State) :
    (bodyOf i s).sreg = s.sreg := by
  cases i with
  | xtime | gfmul | subbyte | invsubbyte | expandkey => rfl
  | _ => simp [Instr.op] at h

theorem bodyOf_keyMaterial {i : Instr} (h : i.op ∉ [Op.expandkey, .encrypt, .decrypt]) (s : State) :
    (bodyOf i s).keyreg = s.keyreg ∧ (bodyOf i s).w = s.w ∧ (bodyOf i s).rk = s.rk := by
  cases i with
  | expandkey | encrypt | decrypt => simp [Instr.op] at h
  | _ => exact ⟨rfl, rfl, rfl⟩

theorem bodyOf_sequencing {i : Instr} (h : i.op ∉ [Op.encrypt, .decrypt]) (s : State) :
    (bodyOf i s).phase = s.phase ∧ (bodyOf i s).rnd = s.rnd ∧ (bodyOf i s).opreg = s.opreg ∧
      (bodyOf i s).obsen = s.obsen := by
  cases i with
  | encrypt | decrypt => simp [Instr.op] at h
  | _ => exact ⟨rfl, rfl, rfl, rfl⟩

/-- The registers a cipher command latches, from its frame alone (R226). -/
theorem bodyOf_cipher {i : Instr} (h : i.op = .encrypt ∨ i.op = .decrypt) (s : State) :
    (bodyOf i s).rnd = 0 ∧ (bodyOf i s).opreg = i.op ∧ (bodyOf i s).obsen = i.obs ∧
      (bodyOf i s).sreg = Block.ofList i.opA ∧ (bodyOf i s).rk = expandKey (Key.ofList i.opB) := by
  cases i with
  | encrypt | decrypt => exact ⟨rfl, rfl, rfl, rfl, sliceRoundKeys_fillWords _ _⟩
  | _ => simp [Instr.op] at h

/-! ## What a command answers -/

/-- No command stops the machine. -/
theorem exec_answers (i : Instr) (s : State) : ∃ t, exec i s = .next t := by
  rw [exec_eq_command]
  rcases command_cases i.op i.opA i.opB (bodyOf i) s with ⟨-, h⟩ | ⟨-, e, -, h⟩ | ⟨-, -, h⟩ <;> exact ⟨_, h⟩

theorem exec_idle_error {i : Instr} {s : State} {e : CommandError} (hp : s.phase = .idle)
    (he : checkLengths i.op i.opA i.opB = some e) : exec i s = .next (s.emitRsp (.error e) []) :=
  (exec_eq_command i s).trans (command_error hp he _)

theorem exec_idle_ok {i : Instr} {s : State} (hp : s.phase = .idle)
    (he : checkLengths i.op i.opA i.opB = none) : exec i s = .next (bodyOf i s) :=
  (exec_eq_command i s).trans (command_ok hp he _)

theorem exec_idle_cases {i : Instr} {s t : State} (hp : s.phase = .idle) (h : exec i s = .next t) :
    (∃ e, checkLengths i.op i.opA i.opB = some e ∧ t = s.emitRsp (.error e) []) ∨
    (checkLengths i.op i.opA i.opB = none ∧ t = bodyOf i s) := by
  cases he : checkLengths i.op i.opA i.opB with
  | some e => rw [exec_idle_error hp he] at h; cases h; exact .inl ⟨e, rfl, rfl⟩
  | none => rw [exec_idle_ok hp he] at h; cases h; exact .inr ⟨rfl, rfl⟩

theorem exec_idle_channels {i : Instr} {s t : State} (hp : s.phase = .idle) (h : exec i s = .next t) :
    t.cmdTaken = s.cmdTaken ∧ t.cmdPending = s.cmdPending ∧ t.rst = s.rst ∧ t.resetDraws = s.resetDraws ∧
      (t.out = s.out ∨ ∃ f, t.out = s.out ++ [.response f]) := by
  rcases exec_idle_cases hp h with ⟨e, -, rfl⟩ | ⟨-, rfl⟩
  · exact ⟨rfl, rfl, rfl, rfl, .inr ⟨_, rfl⟩⟩
  · by_cases hc : i.op = .encrypt ∨ i.op = .decrypt <;> simp [hc]

/-! ## When a step stops -/

theorem Phase.eq_run_of_ne_idle {p : Phase} (h : p ≠ .idle) : p = .run := by
  cases p with
  | idle => exact absurd rfl h
  | run => rfl

theorem step_fifteen {s : State} (hr : s.rst ≠ some .beforeStep) (hp : s.phase = .run) (hn : ¬ s.rnd.toNat ≤ 14) :
    step s = .fault .stageOutOfRange := by
  rcases hrst : s.rst with _ | _ | _
  · rw [step_stage hrst hp, stage_fifteen hn]
  · exact absurd hrst hr
  · rw [step_reset hrst, resetStep_fifteen hp hn]

/-- The three outcomes of a step: a fault by name on stage 15 only, a refusal by name on a malformed frame
only, and else a next state. -/
theorem step_outcomes (s : State) :
    (∃ t, step s = .next t) ∨
    (step s = .fault .stageOutOfRange ∧ s.rst ≠ some .beforeStep ∧ s.phase = .run ∧ ¬ s.rnd.toNat ≤ 14) ∨
    (step s = .refused .malformedFrame ∧ s.rst = none ∧ s.phase = .idle ∧
      ∃ f rest, s.cmdPending = f :: rest ∧ frameComplete f = false) := by
  by_cases hbad : s.rst ≠ some .beforeStep ∧ s.phase = .run ∧ ¬ s.rnd.toNat ≤ 14
  · obtain ⟨hr, hp, hn⟩ := hbad
    exact .inr (.inl ⟨step_fifteen hr hp hn, hr, hp, hn⟩)
  have hstage (hr : s.rst ≠ some .beforeStep) (hp : s.phase = .run) : s.rnd.toNat ≤ 14 := by
    by_contra hn; exact hbad ⟨hr, hp, hn⟩
  cases hr : s.rst with
  | some m =>
    left
    rw [step_reset hr]
    by_cases hm : m = .afterEvent → s.phase = .idle
    · exact ⟨_, resetStep_now hm⟩
    · obtain ⟨rfl, hidle⟩ := Classical.not_imp.1 hm
      have hp : s.phase = .run := Phase.eq_run_of_ne_idle hidle
      exact ⟨_, resetStep_afterEvent hp (hstage (by simp [hr]) hp)⟩
  | none =>
    cases hp : s.phase with
    | run => exact .inl ⟨_, (step_stage hr hp).trans (stage_ok (hstage (by simp [hr]) hp))⟩
    | idle =>
      cases hc : s.cmdPending with
      | nil => exact .inl ⟨_, step_wait hr hp hc⟩
      | cons f rest =>
        cases hd : decode f with
        | ok i => left; rw [step_exec hr hp hc hd]; exact exec_answers i _
        | error e =>
          cases e with
          | illegalCommand => exact .inl ⟨_, step_illegal hr hp hc hd⟩
          | shortHeader =>
            exact .inr (.inr ⟨step_malformed hr hp hc (.inl hd), rfl, rfl, f, rest, rfl,
              (decode_malformed_iff f).1 (.inl hd)⟩)
          | payloadLength =>
            exact .inr (.inr ⟨step_malformed hr hp hc (.inr hd), rfl, rfl, f, rest, rfl,
              (decode_malformed_iff f).1 (.inr hd)⟩)

/-! ## What a step does to `CMD` and to the outputs (10_state.md R28) -/

/-- A step moves the frame at the head of the pending part of `CMD` to the taken part, or no frame. -/
theorem step_cmd_cases {s t : State} (h : step s = .next t) :
    (t.cmdTaken = s.cmdTaken ∧ t.cmdPending = s.cmdPending) ∨
    ∃ f, s.cmdPending = f :: t.cmdPending ∧ t.cmdTaken = s.cmdTaken ++ [f] := by
  rcases step_next_cases h with ⟨m, -, -, rfl⟩ | ⟨-, -, -, rfl⟩ | ⟨-, -, -, rfl⟩ | ⟨-, -, -, rfl⟩ |
    ⟨-, hp, f, rest, hc, hframe⟩
  iterate 4 exact .inl (by simp)
  have htake := State.takeFrame_of_cons s f rest hc
  refine .inr ⟨f, ?_⟩
  rcases hframe with ⟨i, -, hexec⟩ | ⟨-, rfl⟩
  · obtain ⟨htaken, hpending, -⟩ := exec_idle_channels (by simpa using hp) hexec
    exact ⟨by rw [hc, hpending, htake], by rw [htaken, htake]⟩
  · exact ⟨by simp [hc, htake], by simp [htake]⟩

theorem step_cmdHistory {s t : State} (h : step s = .next t) : t.cmdHistory = s.cmdHistory := by
  rcases step_cmd_cases h with ⟨htaken, hpending⟩ | ⟨f, hpending, htaken⟩ <;>
    simp [State.cmdHistory, htaken, hpending]

theorem runStage_out_events (s : State) (n : Nat) :
    ∃ events : List Frame, events.length ≤ 1 ∧ (s.runStage n).out = s.out ++ events.map .event := by
  cases ho : s.obsen
  · exact ⟨[], by simp [ho]⟩
  · exact ⟨[eventFrame n (stageOf s.opreg n s.sreg s.rk).toList], by simp [ho]⟩

theorem endStage_out_responses (s : State) (n : Nat) :
    ∃ responses : List Frame, responses.length ≤ 1 ∧ (s.endStage n).out = s.out ++ responses.map .response := by
  by_cases hn : n < 14
  · exact ⟨[], by simp [hn]⟩
  · exact ⟨[responseFrame .ok s.sreg.toList], by simp [hn]⟩

/-- A step appends at most one event and then at most one response. -/
theorem step_out {s t : State} (h : step s = .next t) :
    ∃ events responses : List Frame, events.length ≤ 1 ∧ responses.length ≤ 1 ∧
      t.out = s.out ++ events.map .event ++ responses.map .response := by
  rcases step_next_cases h with ⟨m, -, -, rfl⟩ | ⟨-, -, -, rfl⟩ | ⟨-, -, -, rfl⟩ | ⟨-, -, -, rfl⟩ |
    ⟨-, hp, f, rest, -, ⟨i, -, hexec⟩ | ⟨-, rfl⟩⟩
  · exact ⟨[], [], by simp⟩
  · obtain ⟨events, hlen, hout⟩ := runStage_out_events s s.rnd.toNat
    exact ⟨events, [], hlen, by simp, by simp only [State.applyReset_out, hout, List.map_nil, List.append_nil]⟩
  · obtain ⟨events, hevents, hstage⟩ := runStage_out_events s s.rnd.toNat
    obtain ⟨responses, hresponses, hend⟩ := endStage_out_responses (s.runStage s.rnd.toNat) s.rnd.toNat
    exact ⟨events, responses, hevents, hresponses, by rw [hend, hstage]⟩
  · exact ⟨[], [], by simp⟩
  · obtain ⟨-, -, -, -, hout | ⟨r, hout⟩⟩ := exec_idle_channels (by simpa using hp) hexec
    · exact ⟨[], [], by simp [hout]⟩
    · exact ⟨[], [r], by simp [hout]⟩
  · exact ⟨[], [responseFrame (.error .illegalCommand) []], by simp⟩

end Sys2Proof.Machine
end

section
/-! The statements of the family 10_state.md: what every step keeps of the state. -/

namespace Sys2Proof.Machine

/-! ## Sequencing -/

theorem sequencingLegal_of_idle {s : State} (h : s.phase = .idle) : s.SequencingLegal := by
  intro hrun
  simp [h] at hrun

/-- A stage before the last one hands over to the next stage of the same operation. -/
theorem endStage_sequencingLegal {s : State} (n : Nat) (h : s.SequencingLegal) :
    (s.endStage n).SequencingLegal := by
  intro hrun
  by_cases hn : n < 14
  · obtain ⟨-, hop⟩ := h (by simpa [hn] using hrun)
    have hnext : (n + 1) % 2 ^ 4 ≤ 14 := by omega
    simpa [hn, hop] using hnext
  · simp [hn] at hrun

theorem bodyOf_sequencingLegal {s : State} (hp : s.phase = .idle) (i : Instr) : (bodyOf i s).SequencingLegal := by
  intro hrun
  have hop : i.op = .encrypt ∨ i.op = .decrypt := by
    by_contra hop
    simp [hop, hp] at hrun
  obtain ⟨hrnd, hopreg, -⟩ := bodyOf_cipher hop s
  rw [hrnd, hopreg]
  exact ⟨by decide, hop⟩

theorem exec_idle_sequencingLegal {i : Instr} {s t : State} (hp : s.phase = .idle) (h : exec i s = .next t) :
    t.SequencingLegal := by
  rcases exec_idle_cases hp h with ⟨e, -, rfl⟩ | ⟨-, rfl⟩
  · exact sequencingLegal_of_idle hp
  · exact bodyOf_sequencingLegal hp i

theorem step_keeps_sequencingLegal {s t : State} (hs : s.SequencingLegal) (h : step s = .next t) :
    t.SequencingLegal := by
  rcases step_next_cases h with ⟨m, -, -, rfl⟩ | ⟨-, -, -, rfl⟩ | ⟨-, -, -, rfl⟩ | ⟨-, -, -, rfl⟩ |
    ⟨-, hp, f, rest, -, ⟨i, -, hexec⟩ | ⟨-, rfl⟩⟩
  · exact sequencingLegal_of_idle (State.applyReset_phase s)
  · exact sequencingLegal_of_idle (State.applyReset_phase _)
  · have hrun : (s.runStage s.rnd.toNat).SequencingLegal := by simpa [State.SequencingLegal] using hs
    exact endStage_sequencingLegal _ hrun
  · exact hs
  · exact exec_idle_sequencingLegal (by simpa using hp) hexec
  · exact sequencingLegal_of_idle (by simpa using hp)

theorem step_keeps_framesComplete {s t : State} (hs : s.FramesComplete) (h : step s = .next t) :
    t.FramesComplete := by
  intro f hf
  rcases step_cmd_cases h with ⟨-, hpending⟩ | ⟨g, hpending, -⟩
  · exact hs f (hpending ▸ hf)
  · exact hs f (hpending ▸ List.mem_cons_of_mem g hf)

/-- Legal sequencing rules out the fault and complete frames rule out the refusal. -/
theorem step_answers {s : State} (hseq : s.SequencingLegal) (hframes : s.FramesComplete) : ∃ t, step s = .next t := by
  rcases step_outcomes s with h | ⟨-, -, hp, hn⟩ | ⟨-, -, -, f, rest, hc, hbad⟩
  · exact h
  · exact absurd (hseq hp).1 hn
  · have hgood : frameComplete f = true := hframes f (by simp [hc])
    simp [hgood] at hbad

/-- Settles O49: a step of such a core answers, and keeps both parts of the invariant. -/
theorem stepNeverStopsAndKeepsSequencing : Obligations.StepNeverStopsAndKeepsSequencing := by
  intro s hseq hframes
  obtain ⟨t, ht⟩ := step_answers hseq hframes
  exact ⟨t, ht, step_keeps_sequencingLegal hseq ht, step_keeps_framesComplete hframes ht⟩

theorem rnd_eq_fifteen_iff (n : BitVec 4) : n = 15 ↔ ¬ n.toNat ≤ 14 := by bv_omega

/-- Settles O29: of the three outcomes of a step the fault is the one on stage 15. -/
theorem onlyStageFifteenFaults : Obligations.OnlyStageFifteenFaults := by
  intro s
  rw [rnd_eq_fifteen_iff]
  refine ⟨fun hfault => ?_, fun ⟨hr, hp, hn⟩ => step_fifteen hr hp hn⟩
  rcases step_outcomes s with ⟨t, h⟩ | ⟨-, hstage⟩ | ⟨h, -⟩
  · rw [h] at hfault; cases hfault
  · exact hstage
  · rw [h] at hfault; cases hfault

/-! ## Frames of a step and of a command -/

theorem rsp_of_out_append {s t : State} {events responses : List Frame}
    (h : t.out = s.out ++ events.map .event ++ responses.map .response) : t.rsp = s.rsp ++ responses := by
  simp [State.rsp, h, List.filterMap_map, Function.comp_def, Output.onRsp]

theorem obs_of_out_append {s t : State} {events responses : List Frame}
    (h : t.out = s.out ++ events.map .event ++ responses.map .response) : t.obs = s.obs ++ events := by
  simp [State.obs, h, List.filterMap_map, Function.comp_def, Output.onObs]

/-- Settles O52: what a step does to `CMD`, and what it appends to the outputs. -/
theorem channelsAreAppendOnly : Obligations.ChannelsAreAppendOnly := by
  intro s t h
  obtain ⟨events, responses, hevents, hresponses, hout⟩ := step_out h
  refine ⟨step_cmdHistory h, ?_, events, responses, hevents, hresponses, hout, rsp_of_out_append hout,
    obs_of_out_append hout⟩
  rcases step_cmd_cases h with ⟨htaken, -⟩ | ⟨f, -, htaken⟩
  · exact .inl htaken
  · exact .inr ⟨f, htaken⟩

/-- Settles O53: an error writes no register, and the body of each command only its own. -/
theorem commandsWriteOnlyTheirRegisters : Obligations.CommandsWriteOnlyTheirRegisters := by
  intro i s t hp h
  obtain ⟨htaken, hpending, hrst, hdraws, hout⟩ := exec_idle_channels hp h
  rcases exec_idle_cases hp h with ⟨e, -, rfl⟩ | ⟨-, rfl⟩
  · exact ⟨fun _ => rfl, fun _ => ⟨rfl, rfl, rfl⟩, fun _ => ⟨hp, rfl, rfl, rfl⟩, hout, htaken, hpending, hrst,
      hdraws⟩
  · exact ⟨fun hop => bodyOf_sreg hop s, fun hop => bodyOf_keyMaterial hop s,
      fun hop => hp ▸ bodyOf_sequencing hop s, hout, htaken, hpending, hrst, hdraws⟩

/-- Settles O54: neither half of a STAGE step writes any of these registers. -/
theorem stagesLeaveKeyMaterialUnchanged : Obligations.StagesLeaveKeyMaterialUnchanged := by
  intro s t hp hr h
  have hn : s.rnd.toNat ≤ 14 := by
    by_contra hn
    rw [step_fifteen (by simp [hr]) hp hn] at h
    cases h
  rw [step_stage hr hp, stage_ok hn] at h
  cases h
  simp

/-! ## Leftovers -/

/-- The registers a STAGE step reads. -/
def State.SameStageRegs (s s' : State) : Prop :=
  s.rnd = s'.rnd ∧ s.opreg = s'.opreg ∧ s.obsen = s'.obsen ∧ s.sreg = s'.sreg ∧ s.rk = s'.rk

/-- Nothing the two cores emit from now on can differ: they show the same, and while a cipher command is in
flight they also agree in what its stages read (10_state.md R32). -/
def State.SeenAlike (s s' : State) : Prop := s.SameChannels s' ∧ (s.phase = .run → s.SameStageRegs s')

theorem State.SeenAlike.of_idle {s s' : State} (hp : s.phase = .idle) (h : s.SameChannels s') : s.SeenAlike s' :=
  ⟨h, fun hrun => by simp [hp] at hrun⟩

theorem applyReset_seenAlike {s s' : State} (h : s.SameChannels s') : s.applyReset.SeenAlike s'.applyReset := by
  obtain ⟨-, -, htaken, hpending, hout⟩ := h
  exact .of_idle rfl ⟨rfl, rfl, htaken, hpending, hout⟩

theorem emitRsp_sameChannels {s s' : State} (st : Status) (x : List Byte) (h : s.SameChannels s') :
    (s.emitRsp st x).SameChannels (s'.emitRsp st x) := by
  obtain ⟨hphase, hrst, htaken, hpending, hout⟩ := h
  exact ⟨hphase, hrst, htaken, hpending, by simp [hout]⟩

theorem takeFrame_sameChannels {s s' : State} (h : s.SameChannels s') :
    s.takeFrame.SameChannels s'.takeFrame := by
  obtain ⟨hphase, hrst, htaken, hpending, hout⟩ := h
  cases hc : s'.cmdPending <;> simp [State.takeFrame, State.SameChannels, hphase, hrst, htaken, hpending, hout, hc]

theorem runStage_seenAlike {s s' : State} (n : Nat) (h : s.SeenAlike s') (hp : s.phase = .run) :
    (s.runStage n).SeenAlike (s'.runStage n) := by
  obtain ⟨⟨hphase, hrst, htaken, hpending, hout⟩, hregs⟩ := h
  obtain ⟨hrnd, hopreg, hobsen, hsreg, hrk⟩ := hregs hp
  simp [State.SeenAlike, State.SameChannels, State.SameStageRegs, hphase, hrst, htaken, hpending, hout, hrnd, hopreg,
    hobsen, hsreg, hrk]

theorem endStage_seenAlike {s s' : State} (n : Nat) (h : s.SeenAlike s') (hp : s.phase = .run) :
    (s.endStage n).SeenAlike (s'.endStage n) := by
  obtain ⟨⟨hphase, hrst, htaken, hpending, hout⟩, hregs⟩ := h
  obtain ⟨hrnd, hopreg, hobsen, hsreg, hrk⟩ := hregs hp
  simp [State.SeenAlike, State.SameChannels, State.SameStageRegs, hphase, hrst, htaken, hpending, hout, hrnd, hopreg,
    hobsen, hsreg, hrk]

/-- What a command emits and latches is a function of its frame. -/
theorem bodyOf_seenAlike {s s' : State} (i : Instr) (h : s.SameChannels s') (hp : s.phase = .idle) :
    (bodyOf i s).SeenAlike (bodyOf i s') := by
  obtain ⟨hphase, hrst, htaken, hpending, hout⟩ := h
  refine ⟨by simp [State.SameChannels, hphase, hrst, htaken, hpending, hout], fun hrun => ?_⟩
  have hop : i.op = .encrypt ∨ i.op = .decrypt := by
    by_contra hop
    simp [hop, hp] at hrun
  obtain ⟨hrnd, hopreg, hobsen, hsreg, hrk⟩ := bodyOf_cipher hop s
  obtain ⟨hrnd', hopreg', hobsen', hsreg', hrk'⟩ := bodyOf_cipher hop s'
  exact ⟨hrnd.trans hrnd'.symm, hopreg.trans hopreg'.symm, hobsen.trans hobsen'.symm, hsreg.trans hsreg'.symm,
    hrk.trans hrk'.symm⟩

theorem exec_idle_seenAlike {i : Instr} {s s' t : State} (h : s.SameChannels s') (hp : s.phase = .idle)
    (hexec : exec i s = .next t) : ∃ t', exec i s' = .next t' ∧ t.SeenAlike t' := by
  have hp' : s'.phase = .idle := h.1 ▸ hp
  rcases exec_idle_cases hp hexec with ⟨e, he, rfl⟩ | ⟨he, rfl⟩
  · exact ⟨_, exec_idle_error hp' he, .of_idle hp (emitRsp_sameChannels _ _ h)⟩
  · exact ⟨_, exec_idle_ok hp' he, bodyOf_seenAlike i h hp⟩

theorem step_seenAlike {s s' t : State} (h : s.SeenAlike s') (hstep : step s = .next t) :
    ∃ t', step s' = .next t' ∧ t.SeenAlike t' := by
  have ⟨hsame, hregs⟩ := h
  have ⟨hphase, hrst, _, hpending, _⟩ := hsame
  rcases step_next_cases hstep with ⟨m, hr, hm, rfl⟩ | ⟨hr, hp, hn, rfl⟩ | ⟨hr, hp, hn, rfl⟩ | ⟨hr, hp, hc, rfl⟩ |
    ⟨hr, hp, f, rest, hc, hframe⟩
  · exact ⟨_, (step_reset (hrst ▸ hr)).trans (resetStep_now (hphase ▸ hm)), applyReset_seenAlike hsame⟩
  · obtain ⟨hrnd, -⟩ := hregs hp
    obtain ⟨hstage, -⟩ := runStage_seenAlike s.rnd.toNat h hp
    refine ⟨_, (step_reset (hrst ▸ hr)).trans (resetStep_afterEvent (hphase ▸ hp) (hrnd ▸ hn)), ?_⟩
    exact hrnd ▸ applyReset_seenAlike hstage
  · obtain ⟨hrnd, -⟩ := hregs hp
    have hstage := runStage_seenAlike s.rnd.toNat h hp
    refine ⟨_, (step_stage (hrst ▸ hr) (hphase ▸ hp)).trans (stage_ok (hrnd ▸ hn)), ?_⟩
    exact hrnd ▸ endStage_seenAlike s.rnd.toNat hstage (by simpa using hp)
  · exact ⟨_, step_wait (hrst ▸ hr) (hphase ▸ hp) (hpending ▸ hc), h⟩
  · have htake := takeFrame_sameChannels hsame
    have hidle : s.takeFrame.phase = .idle := by simpa using hp
    rcases hframe with ⟨i, hd, hexec⟩ | ⟨hd, rfl⟩
    · rw [step_exec (hrst ▸ hr) (hphase ▸ hp) (hpending ▸ hc) hd]
      exact exec_idle_seenAlike htake hidle hexec
    · exact ⟨_, step_illegal (hrst ▸ hr) (hphase ▸ hp) (hpending ▸ hc) hd,
        .of_idle hidle (emitRsp_sameChannels _ _ htake)⟩

/-- A run that answers a next state answered one at its first step. -/
theorem run_succ_next {n : Nat} {s t : State} (h : Host.Core.run core (n + 1) s = .next t) :
    ∃ u, step s = .next u ∧ Host.Core.run core n u = .next t := by
  simp only [Host.Core.run] at h
  cases hs : core.step s with
  | next u => rw [hs] at h; exact ⟨u, hs, h⟩
  | fault r => rw [hs] at h; cases h
  | refused r => rw [hs] at h; cases h

theorem run_seenAlike {n : Nat} {s s' t : State} (h : s.SeenAlike s') (hrun : Host.Core.run core n s = .next t) :
    ∃ t', Host.Core.run core n s' = .next t' ∧ t.SeenAlike t' := by
  induction n generalizing s s' with
  | zero => cases hrun; exact ⟨s', rfl, h⟩
  | succ n ih =>
    obtain ⟨u, hstep, hrest⟩ := run_succ_next hrun
    obtain ⟨u', hstep', hu⟩ := step_seenAlike h hstep
    rw [run_succ n hstep']
    exact ih hu hrest

/-- Settles O55, by induction on the steps with the relation `SeenAlike`. -/
theorem leftoversAreNeverSeen : Obligations.LeftoversAreNeverSeen := by
  intro n s s' t hp hsame hrun
  obtain ⟨t', hrun', ht, -⟩ := run_seenAlike (.of_idle hp hsame) hrun
  exact ⟨t', hrun', ht⟩

/-! ## The state after reset, and what the host does -/

/-- Settles O13: each value is the one `State.reset` writes down. -/
theorem resetStateAsTheSpecGives : Obligations.ResetStateAsTheSpecGives :=
  ⟨rfl, rfl, rfl, rfl, rfl, rfl⟩

theorem reset_historyAgrees : State.reset.HistoryAgrees :=
  ⟨fun _ => rfl, fun hrun => nomatch hrun⟩

/-- The agreement does not look at the pending frames. -/
theorem hostPresent_historyAgrees_iff (s : State) (f : Frame) :
    (s.hostPresent f).HistoryAgrees ↔ s.HistoryAgrees := Iff.rfl

/-- The agreement does not look at the reset input. -/
theorem hostReset_historyAgrees_iff (s : State) (m : ResetMoment) :
    (s.hostReset m).HistoryAgrees ↔ s.HistoryAgrees := Iff.rfl

/-- Settles O48: the host's actions change only what the agreement does not look at. -/
theorem historyAgreementAtResetAndUnderTheHost : Obligations.HistoryAgreementAtResetAndUnderTheHost := by
  refine ⟨reset_historyAgrees, fun _ => rfl, fun s f hs hhost => ?_, fun s m hs hp => ?_⟩
  · exact ⟨(hostPresent_historyAgrees_iff s f).2 hs, hhost⟩
  · exact ⟨(hostReset_historyAgrees_iff s m).2 hs, fun _ => hp⟩

/-- Settles O50: idle, no frame pending, nothing emitted. -/
theorem sequencingLegalAtReset : Obligations.SequencingLegalAtReset :=
  ⟨sequencingLegal_of_idle rfl, List.forall_mem_nil _, List.forall_mem_nil _⟩

end Sys2Proof.Machine
end

section
/-! The header word and the opcode table (30_encoding.md R82, R86-R88): a header word is its four bytes, and a row
of the table selects by the first two of them. -/

namespace Sys2Proof

/-! ## The header word -/

theorem toNat_append_byte {n : Nat} (x : BitVec n) (y : Byte) : (x ++ y).toNat = x.toNat * 2 ^ 8 + y.toNat := by
  rw [BitVec.toNat_append, ← Nat.shiftLeft_add_eq_or_of_lt y.isLt, Nat.shiftLeft_eq]

theorem headerWord_toNat (op flags blen klen : Byte) :
    (headerWord op flags blen klen).toNat =
      op.toNat * 2 ^ 24 + flags.toNat * 2 ^ 16 + blen.toNat * 2 ^ 8 + klen.toNat := by
  rw [headerWord, toNat_append_byte, toNat_append_byte, toNat_append_byte]
  omega

theorem headerWord_inj {op flags blen klen op' flags' blen' klen' : Byte} :
    headerWord op flags blen klen = headerWord op' flags' blen' klen' ↔
      op = op' ∧ flags = flags' ∧ blen = blen' ∧ klen = klen' := by
  refine ⟨fun h => ?_, by rintro ⟨rfl, rfl, rfl, rfl⟩; rfl⟩
  have hnat := congrArg BitVec.toNat h
  simp only [headerWord_toNat] at hnat
  bv_omega

/-- Every 32-bit word is the header word of its four bytes. -/
theorem exists_eq_headerWord (h : BitVec 32) : ∃ op flags blen klen, h = headerWord op flags blen klen := by
  refine ⟨h.extractLsb' 24 8, h.extractLsb' 16 8, h.extractLsb' 8 8, h.extractLsb' 0 8, BitVec.eq_of_toNat_eq ?_⟩
  simp only [headerWord_toNat, BitVec.extractLsb'_toNat, Nat.shiftRight_eq_div_pow]
  have := h.isLt
  omega

theorem headerWord_and (op flags blen klen op' flags' blen' klen' : Byte) :
    headerWord op flags blen klen &&& headerWord op' flags' blen' klen' =
      headerWord (op &&& op') (flags &&& flags') (blen &&& blen') (klen &&& klen') := by
  simp only [headerWord, ← BitVec.and_append]

theorem extractLsb'_op_headerWord (op flags blen klen : Byte) :
    (headerWord op flags blen klen).extractLsb' 24 8 = op := by
  rw [headerWord, BitVec.extractLsb'_append_eq_of_le (by decide), BitVec.extractLsb'_append_eq_of_le (by decide),
    BitVec.extractLsb'_append_eq_left]

theorem extractLsb'_rsv_headerWord (op flags blen klen : Byte) :
    (headerWord op flags blen klen).extractLsb' 17 7 = flags.extractLsb' 1 7 := by
  rw [headerWord, BitVec.extractLsb'_append_eq_of_le (by decide), BitVec.extractLsb'_append_eq_of_le (by decide),
    BitVec.extractLsb'_append_eq_of_add_le (by decide)]

theorem headerObs_headerWord (op flags blen klen : Byte) :
    headerObs (headerWord op flags blen klen) = flags.getLsbD 0 := by
  rw [headerObs, headerWord, BitVec.getLsbD_append, if_neg (by decide), BitVec.getLsbD_append, if_neg (by decide),
    BitVec.getLsbD_append, if_pos (by decide)]

/-- Settles O3, one lemma for each field. -/
theorem headerWordFields : Obligations.HeaderWordFields := fun op flags blen klen =>
  ⟨headerWord_toNat op flags blen klen, extractLsb'_op_headerWord op flags blen klen,
    extractLsb'_rsv_headerWord op flags blen klen, headerObs_headerWord op flags blen klen,
    Machine.headerBlen_headerWord op flags blen klen, Machine.headerKlen_headerWord op flags blen klen⟩

/-! ## The rows of the opcode table -/

/-- The bits of `FLAGS` that must be 0: all of them, but for `OBS` on the cipher operations (R83). -/
def Op.flagsMask (o : Op) : Byte := if o = .encrypt ∨ o = .decrypt then 0xFE else 0xFF

/-- The row of an operation: `OP` is its code, and the masked bits of `FLAGS` are 0. -/
def rowOf (o : Op) : OpcodeRow := ⟨o, headerWord 0xFF o.flagsMask 0 0, headerWord o.code 0 0 0⟩

theorem eq_rowOf_of_mem_opcodeTable : ∀ r ∈ opcodeTable, r = rowOf r.op := by decide

theorem rowOf_mem_opcodeTable (o : Op) : rowOf o ∈ opcodeTable := by cases o <;> decide

theorem Op.code_inj {o o' : Op} (h : o.code = o'.code) : o = o' := by
  revert h; cases o <;> cases o' <;> decide

theorem rowOf_selects_iff (o : Op) (op flags blen klen : Byte) :
    (rowOf o).selects (headerWord op flags blen klen) = true ↔ o.code = op ∧ flags &&& o.flagsMask = 0 := by
  have hop : op &&& 0xFF = op := BitVec.and_allOnes
  have hlengths (x : Byte) : x &&& 0 = 0 := BitVec.and_zero
  simp only [OpcodeRow.selects, rowOf, beq_iff_eq, headerWord_and, headerWord_inj, hop, hlengths, and_true,
    @eq_comm _ o.code]

/-- Settles O4: the masks cover `OP`, and the operations have distinct codes. -/
theorem opcodeRowsExclusive : Obligations.OpcodeRowsExclusive := by
  intro h r r' hr hr' hsel hsel'
  obtain ⟨op, flags, blen, klen, rfl⟩ := exists_eq_headerWord h
  rw [eq_rowOf_of_mem_opcodeTable r hr] at hsel ⊢
  rw [eq_rowOf_of_mem_opcodeTable r' hr'] at hsel' ⊢
  obtain ⟨hcode, -⟩ := (rowOf_selects_iff ..).1 hsel
  obtain ⟨hcode', -⟩ := (rowOf_selects_iff ..).1 hsel'
  rw [Op.code_inj (hcode.trans hcode'.symm)]

/-- R88 step 2: the operation of a header is the one whose code and mask its first two bytes meet. -/
theorem headerOp_eq_some_iff (o : Op) (op flags blen klen : Byte) :
    headerOp (headerWord op flags blen klen) = some o ↔ o.code = op ∧ flags &&& o.flagsMask = 0 := by
  rw [← rowOf_selects_iff o op flags blen klen, headerOp, Option.map_eq_some_iff]
  constructor
  · rintro ⟨r, hfind, rfl⟩
    rw [← eq_rowOf_of_mem_opcodeTable r (List.mem_of_find?_eq_some hfind)]
    exact List.find?_some (p := (OpcodeRow.selects · _)) hfind
  · intro hsel
    obtain ⟨r, hfind⟩ := Option.isSome_iff_exists.1
      (List.find?_isSome (p := (OpcodeRow.selects · _)).2 ⟨_, rowOf_mem_opcodeTable o, hsel⟩)
    have hr : r = rowOf o := opcodeRowsExclusive _ r (rowOf o) (List.mem_of_find?_eq_some hfind)
      (rowOf_mem_opcodeTable o) (List.find?_some (p := (OpcodeRow.selects · _)) hfind) hsel
    exact ⟨r, hfind, congrArg OpcodeRow.op hr⟩

/-- A legal `FLAGS` byte has its reserved bits 0, and `OBS` only on the cipher operations (R83). -/
theorem and_flagsMask_eq_zero_iff (o : Op) (flags : Byte) :
    flags &&& o.flagsMask = 0 ↔
      flags &&& 0xFE = 0 ∧ (flags.getLsbD 0 = true → o = .encrypt ∨ o = .decrypt) := by
  have hall : ∀ flags : Byte, flags &&& 0xFF = 0 ↔ flags &&& 0xFE = 0 ∧ flags.getLsbD 0 = false := by decide
  by_cases ho : o = .encrypt ∨ o = .decrypt
  · simp [Op.flagsMask, ho]
  · rw [Op.flagsMask, if_neg ho, hall]
    simp [ho]

/-- A legal `FLAGS` byte is its bit `OBS`. -/
theorem eq_obs_of_reserved_zero :
    ∀ flags : Byte, flags &&& 0xFE = 0 → (if flags.getLsbD 0 = true then 0x01 else 0x00) = flags := by decide

end Sys2Proof
end

section
/-! The decoder and the encoder are each other's inverses (30_encoding.md R81-R88). -/

namespace Sys2Proof

/-! ## A command is its operation, its observer bit and its operands -/

@[simp] theorem Instr.build_op (o : Op) (obs : Bool) (a b : List Byte) : (Instr.build o obs a b).op = o := by
  cases o <;> rfl
@[simp] theorem Instr.build_opA (o : Op) (obs : Bool) (a b : List Byte) : (Instr.build o obs a b).opA = a := by
  cases o <;> rfl
@[simp] theorem Instr.build_opB (o : Op) (obs : Bool) (a b : List Byte) : (Instr.build o obs a b).opB = b := by
  cases o <;> rfl

/-- The observer bit is kept where the operation may carry one (R83). -/
theorem Instr.build_obs {o : Op} {obs : Bool} (h : obs = true → o = .encrypt ∨ o = .decrypt) (a b : List Byte) :
    (Instr.build o obs a b).obs = obs := by
  cases o with
  | encrypt | decrypt => rfl
  | _ => cases obs with
    | false => rfl
    | true => simp at h

@[simp] theorem Instr.build_self (i : Instr) : Instr.build i.op i.obs i.opA i.opB = i := by
  cases i <;> rfl

theorem Instr.op_of_obs {i : Instr} (h : i.obs = true) : i.op = .encrypt ∨ i.op = .decrypt := by
  cases i with
  | encrypt => exact .inl rfl
  | decrypt => exact .inr rfl
  | _ => simp [Instr.obs] at h

@[simp] theorem Instr.flags_getElem_zero (i : Instr) : i.flags[0] = i.obs := by
  cases h : i.obs <;> simp [Instr.flags, h]

theorem Instr.flags_legal (i : Instr) : i.flags &&& i.op.flagsMask = 0 := by
  refine (and_flagsMask_eq_zero_iff _ _).2 ⟨?_, fun h => Instr.op_of_obs (by simpa using h)⟩
  cases h : i.obs <;> simp [Instr.flags, h]

/-! ## The decoder -/

/-- R88: what the decoder answers for four header bytes and a payload. -/
theorem decode_cons (op flags blen klen : Byte) (payload : List Byte) :
    decode (op :: flags :: blen :: klen :: payload) =
      if payload.length = blen.toNat + klen.toNat then
        (headerOp (headerWord op flags blen klen)).elim (.error .illegalCommand) fun o =>
          .ok (Instr.build o (flags.getLsbD 0) (payload.take blen.toNat) (payload.drop blen.toNat))
      else .error .payloadLength := by
  simp only [decode, Machine.headerBlen_headerWord, Machine.headerKlen_headerWord, headerObs_headerWord]
  cases headerOp (headerWord op flags blen klen) <;> rfl

theorem decode_cons_eq_ok_iff (op flags blen klen : Byte) (payload : List Byte) (i : Instr) :
    decode (op :: flags :: blen :: klen :: payload) = .ok i ↔
      payload.length = blen.toNat + klen.toNat ∧ ∃ o : Op, (o.code = op ∧ flags &&& o.flagsMask = 0) ∧
        Instr.build o (flags.getLsbD 0) (payload.take blen.toNat) (payload.drop blen.toNat) = i := by
  simp only [decode_cons, ← headerOp_eq_some_iff _ op flags blen klen]
  by_cases hlen : payload.length = blen.toNat + klen.toNat
  · cases headerOp (headerWord op flags blen klen) <;> simp [hlen]
  · simp [hlen]

theorem decode_cons_eq_illegal_iff (op flags blen klen : Byte) (payload : List Byte) :
    decode (op :: flags :: blen :: klen :: payload) = .error .illegalCommand ↔
      payload.length = blen.toNat + klen.toNat ∧ ¬ ∃ o : Op, o.code = op ∧ flags &&& o.flagsMask = 0 := by
  simp only [decode_cons, ← headerOp_eq_some_iff _ op flags blen klen]
  by_cases hlen : payload.length = blen.toNat + klen.toNat
  · cases headerOp (headerWord op flags blen klen) <;> simp [hlen]
  · simp [hlen]

theorem exists_cons_of_decode_ne_shortHeader {f : Frame} (h : decode f ≠ .error .shortHeader) :
    ∃ op flags blen klen payload, f = op :: flags :: blen :: klen :: payload := by
  rcases f with _ | ⟨op, _ | ⟨flags, _ | ⟨blen, _ | ⟨klen, payload⟩⟩⟩⟩
  case cons.cons.cons.cons => exact ⟨op, flags, blen, klen, payload, rfl⟩
  all_goals simp [decode] at h

/-- Settles O1: the header of the encoding selects the command's own row, and its lengths cut the payload where
the operands meet. -/
theorem decodeOfEncodeIsTheCommand : Obligations.DecodeOfEncodeIsTheCommand := by
  rintro i ⟨ha, hb⟩
  have hblen : (BitVec.ofNat 8 i.opA.length).toNat = i.opA.length := Nat.mod_eq_of_lt (by omega)
  have hklen : (BitVec.ofNat 8 i.opB.length).toNat = i.opB.length := Nat.mod_eq_of_lt (by omega)
  rw [encode, decode_cons_eq_ok_iff, hblen, hklen]
  exact ⟨List.length_append, i.op, ⟨rfl, i.flags_legal⟩, by simp⟩

/-- Settles O6: the row gives the operation, and the payload is cut at `BLEN`. -/
theorem operandsAreThePayloadInOrder : Obligations.OperandsAreThePayloadInOrder := by
  intro op flags blen klen payload i h
  obtain ⟨hlen, o, ⟨hcode, hflags⟩, rfl⟩ := (decode_cons_eq_ok_iff ..).1 h
  obtain ⟨-, hobs⟩ := (and_flagsMask_eq_zero_iff o flags).1 hflags
  refine ⟨by simp [hcode], Instr.build_obs hobs _ _, ?_, ?_, by simp⟩
  · simp only [Instr.build_opA, List.length_take]; omega
  · simp only [Instr.build_opB, List.length_drop]; omega

/-- Settles O2: each byte of the header is what the encoder writes for the decoded command. -/
theorem encodeOfDecodeIsTheFrame : Obligations.EncodeOfDecodeIsTheFrame := by
  intro f i h
  obtain ⟨op, flags, blen, klen, payload, rfl⟩ := exists_cons_of_decode_ne_shortHeader (f := f) (by simp [h])
  obtain ⟨hcode, hobs, ha, hb, hpayload⟩ := operandsAreThePayloadInOrder _ _ _ _ _ _ h
  obtain ⟨-, o, ⟨-, hmask⟩, -⟩ := (decode_cons_eq_ok_iff ..).1 h
  have hflags : i.flags = flags := by
    rw [Instr.flags, hobs]
    exact eq_obs_of_reserved_zero flags ((and_flagsMask_eq_zero_iff o flags).1 hmask).1
  have hblen := blen.isLt
  have hklen := klen.isLt
  exact ⟨⟨by omega, by omega⟩, by simp [encode, hcode, hflags, ha, hb, ← hpayload]⟩

/-! ## Illegal frames -/

/-- The fourteen opcodes (R86, R87). -/
theorem exists_code_eq_iff (op : Byte) :
    (∃ o : Op, o.code = op) ↔
      op ∈ ([0x01, 0x02, 0x10, 0x11, 0x20, 0x30, 0x31, 0x32, 0x33, 0x34, 0x35, 0x36, 0x40, 0x41] : List Byte) := by
  constructor
  · rintro ⟨o, rfl⟩
    cases o <;> decide
  · have hrow : ∀ c ∈ opcodeTable.map (·.op.code), ∃ o : Op, o.code = c := by
      intro c hc
      obtain ⟨r, -, rfl⟩ := List.mem_map.1 hc
      exact ⟨r.op, rfl⟩
    exact hrow op

theorem Op.cipher_iff_code (o : Op) : (o = .encrypt ∨ o = .decrypt) ↔ (o.code = 0x40 ∨ o.code = 0x41) := by
  cases o <;> decide

/-- Settles O5: no row selects exactly when one of its three conditions fails. -/
theorem illegalEncodingsExactly : Obligations.IllegalEncodingsExactly := by
  intro op flags blen klen payload hlen
  have hlegal : (∃ o : Op, o.code = op ∧ flags &&& o.flagsMask = 0) ↔
      (∃ o : Op, o.code = op) ∧ flags &&& 0xFE = 0 ∧ (flags.getLsbD 0 = true → op = 0x40 ∨ op = 0x41) := by
    simp only [and_flagsMask_eq_zero_iff, Op.cipher_iff_code]
    constructor
    · rintro ⟨o, rfl, h⟩; exact ⟨⟨o, rfl⟩, h⟩
    · rintro ⟨⟨o, rfl⟩, h⟩; exact ⟨o, rfl, h⟩
  rw [decode_cons_eq_illegal_iff, hlegal, exists_code_eq_iff]
  tauto

/-- Settles O7: the ten frames are evaluated. -/
theorem specFramesDecode : Obligations.SpecFramesDecode := by
  unfold Obligations.SpecFramesDecode
  decide +kernel

/-! ## Withdrawing the observer request (R83, R91) -/

/-- The command without its observer request. -/
def Instr.unobserved (i : Instr) : Instr := Instr.build i.op false i.opA i.opB

@[simp] theorem Instr.unobserved_op (i : Instr) : i.unobserved.op = i.op := Instr.build_op ..
@[simp] theorem Instr.unobserved_opA (i : Instr) : i.unobserved.opA = i.opA := Instr.build_opA ..
@[simp] theorem Instr.unobserved_opB (i : Instr) : i.unobserved.opB = i.opB := Instr.build_opB ..
@[simp] theorem Instr.unobserved_obs (i : Instr) : i.unobserved.obs = false := Instr.build_obs (by simp) ..

theorem Instr.unobserved_of_obs_false {i : Instr} (h : i.obs = false) : i.unobserved = i := by
  rw [Instr.unobserved, ← h, Instr.build_self]

theorem withoutObserver_encode (i : Instr) : Machine.withoutObserver (encode i) = encode i.unobserved := by
  cases hobs : i.obs with
  | false => simp [Machine.withoutObserver, encode, Instr.flags, hobs, Instr.unobserved_of_obs_false hobs]
  | true =>
    have hcode := i.op.cipher_iff_code.1 (Instr.op_of_obs hobs)
    simpa [Machine.withoutObserver, encode, Instr.flags, hobs, Decidable.or_iff_not_imp_left] using hcode

theorem decode_withoutObserver_of_ok {f : Frame} {i : Instr} (h : decode f = .ok i) :
    decode (Machine.withoutObserver f) = .ok i.unobserved := by
  obtain ⟨hwf, rfl⟩ := encodeOfDecodeIsTheFrame f i h
  rw [withoutObserver_encode]
  exact decodeOfEncodeIsTheCommand _ (by simpa [Instr.WellFormed, Instr.FitsBlen, Instr.FitsKlen] using hwf)

/-- No request is withdrawn from an illegal frame: the frames that may carry one are legal. -/
theorem withoutObserver_of_illegal {f : Frame} (h : decode f = .error .illegalCommand) :
    Machine.withoutObserver f = f := by
  obtain ⟨op, flags, blen, klen, payload, rfl⟩ := exists_cons_of_decode_ne_shortHeader (f := f) (by simp [h])
  obtain ⟨hlen, -⟩ := (decode_cons_eq_illegal_iff ..).1 h
  refine if_neg ?_
  rintro ⟨hop, rfl⟩
  rcases (illegalEncodingsExactly op 0x01 blen klen payload hlen).1 h with hcode | hrsv | ⟨-, hne, hne'⟩
  · rcases hop with rfl | rfl <;> simp at hcode
  · exact hrsv (by decide)
  · exact hop.elim hne hne'

end Sys2Proof
end

section
/-! The statements of the family 30_encoding.md about the step: which byte sequences are refused, which output
frames are legal, and that the observer request is not seen in the responses. -/

namespace Sys2Proof.Machine

/-- Settles O10: of the three outcomes of a step the refusal is the one on a malformed frame. -/
theorem onlyMalformedFramesAreRefused : Obligations.OnlyMalformedFramesAreRefused := by
  intro s
  constructor
  · intro hrefused
    rcases step_outcomes s with ⟨t, h⟩ | ⟨h, -⟩ | ⟨-, hmalformed⟩
    · rw [h] at hrefused; cases hrefused
    · rw [h] at hrefused; cases hrefused
    · exact hmalformed
  · rintro ⟨hr, hp, f, rest, hc, hbad⟩
    exact step_malformed hr hp hc ((decode_malformed_iff f).2 hbad)

/-! ## Legal output frames (30_encoding.md R92-R94) -/

theorem legalEvent_eventFrame {n : Nat} (hn : n ≤ 14) (x : Block) : LegalEvent (eventFrame n x.toList) := by
  refine ⟨_, _, rfl, ?_, x.toList_length⟩
  rw [BitVec.toNat_ofNat]
  omega

theorem legalResponse_error (e : CommandError) : LegalResponse (responseFrame (.error e) []) := by
  refine ⟨e.code, 0, [], rfl, rfl, .inr ⟨?_, rfl⟩⟩
  cases e <;> decide

/-- How many result bytes a successful response may carry (R92). -/
def ResultLength (x : List Byte) : Prop := x.length = 1 ∨ x.length = 16 ∨ x.length = 240

theorem legalResponse_ok {x : List Byte} (hx : ResultLength x) : LegalResponse (responseFrame .ok x) := by
  refine ⟨_, _, x, rfl, ?_, .inl ⟨rfl, hx⟩⟩
  unfold ResultLength at hx
  rw [BitVec.toNat_ofNat]
  omega

theorem roundKeyBytes_length (rk : RoundKeys) : (roundKeyBytes rk).length = 240 := by
  simp [roundKeyBytes, List.length_flatMap]

theorem commandResult_resultLength (i : Instr) : ResultLength (commandResult i) := by
  cases i with
  | xtime | gfmul | subbyte | invsubbyte => exact .inl rfl
  | expandkey => exact .inr (.inr (roundKeyBytes_length _))
  | _ => exact .inr (.inl rfl)

/-- A step keeps the channels legal when what it appends is legal. -/
theorem State.ChannelsLegal.append {s t : State} {l : List Output} (hs : s.ChannelsLegal)
    (hout : t.out = s.out ++ l) (hl : ∀ o ∈ l, LegalOutput o) : t.ChannelsLegal := by
  intro o ho
  rw [hout] at ho
  exact (List.mem_append.1 ho).elim (hs o) (hl o)

theorem emitRsp_error_channelsLegal {s : State} (hs : s.ChannelsLegal) (e : CommandError) :
    (s.emitRsp (.error e) []).ChannelsLegal :=
  hs.append (State.emitRsp_out ..) (List.forall_mem_singleton.2 (legalResponse_error e))

theorem runStage_channelsLegal {s : State} (hs : s.ChannelsLegal) {n : Nat} (hn : n ≤ 14) :
    (s.runStage n).ChannelsLegal := by
  refine hs.append (State.runStage_out s n) ?_
  cases s.obsen
  · exact List.forall_mem_nil _
  · exact List.forall_mem_singleton.2 (legalEvent_eventFrame hn _)

theorem endStage_channelsLegal {s : State} (hs : s.ChannelsLegal) (n : Nat) : (s.endStage n).ChannelsLegal := by
  refine hs.append (State.endStage_out s n) ?_
  split
  · exact List.forall_mem_nil _
  · exact List.forall_mem_singleton.2 (legalResponse_ok (.inr (.inl s.sreg.toList_length)))

theorem exec_idle_channelsLegal {i : Instr} {s t : State} (hp : s.phase = .idle) (hs : s.ChannelsLegal)
    (h : exec i s = .next t) : t.ChannelsLegal := by
  rcases exec_idle_cases hp h with ⟨e, -, rfl⟩ | ⟨-, rfl⟩
  · exact emitRsp_error_channelsLegal hs e
  · refine hs.append (bodyOf_out i s) ?_
    split
    · exact List.forall_mem_nil _
    · exact List.forall_mem_singleton.2 (legalResponse_ok (commandResult_resultLength i))

/-- Settles O51, by the cases of a step. -/
theorem stepKeepsChannelsLegal : Obligations.StepKeepsChannelsLegal := by
  intro s t hs h
  have htake : s.takeFrame.ChannelsLegal := hs.append (l := []) (by simp) (List.forall_mem_nil _)
  rcases step_next_cases h with ⟨m, -, -, rfl⟩ | ⟨-, -, hn, rfl⟩ | ⟨-, -, hn, rfl⟩ | ⟨-, -, -, rfl⟩ |
    ⟨-, hp, f, rest, -, ⟨i, -, hexec⟩ | ⟨-, rfl⟩⟩
  · exact hs
  · exact runStage_channelsLegal hs hn
  · exact endStage_channelsLegal (runStage_channelsLegal hs hn) _
  · exact hs
  · exact exec_idle_channelsLegal (by simpa using hp) htake hexec
  · exact emitRsp_error_channelsLegal htake _

/-! ## The observer request is not seen in the responses (30_encoding.md R91) -/

theorem commandResult_unobserved (i : Instr) : commandResult i.unobserved = commandResult i := by
  cases i <;> rfl

@[simp] theorem bodyOf_rsp (i : Instr) (s : State) :
    (bodyOf i s).rsp =
      s.rsp ++ if i.op = .encrypt ∨ i.op = .decrypt then [] else [responseFrame .ok (commandResult i)] := by
  by_cases hop : i.op = .encrypt ∨ i.op = .decrypt <;> simp [State.rsp, Output.onRsp, hop]

@[simp] theorem bodyOf_obs (i : Instr) (s : State) : (bodyOf i s).obs = s.obs := by
  by_cases hop : i.op = .encrypt ∨ i.op = .decrypt <;> simp [State.obs, Output.onObs, hop]

/-- `s'` is the core `s` without observer requests: the two give the same responses from now on, and `s'` emits no
event beyond `events`. While a cipher command is in flight they agree in what its stages read; a reset input is
applied to idle cores only, and these agree in what the reset reads. -/
structure State.Unobserved (events : List Frame) (s s' : State) : Prop where
  phase : s'.phase = s.phase
  rnd : s'.rnd = s.rnd
  sreg : s'.sreg = s.sreg
  rst : s'.rst = s.rst
  cmdPending : s'.cmdPending = s.cmdPending.map withoutObserver
  rsp : s'.rsp = s.rsp
  obs : s'.obs = events
  stage : s.phase = .run → s'.opreg = s.opreg ∧ s'.rk = s.rk ∧ s'.obsen = false
  reset : s.rst ≠ none → s.phase = .idle ∧ s'.workRegs = s.workRegs ∧ s'.resetDraws = s.resetDraws

theorem State.Unobserved.of_withoutObserver {s : State} (hp : s.phase = .idle) :
    s.Unobserved s.obs { s with cmdPending := s.cmdPending.map withoutObserver } where
  phase := rfl
  rnd := rfl
  sreg := rfl
  rst := rfl
  cmdPending := rfl
  rsp := rfl
  obs := rfl
  stage hrun := by simp [hp] at hrun
  reset _ := ⟨hp, rfl, rfl⟩

/-- A relation that every step keeps relates the ends of two runs as well. -/
theorem run_simulates {R : State → State → Prop}
    (hR : ∀ {s s' t}, R s s' → step s = .next t → ∃ t', step s' = .next t' ∧ R t t')
    {n : Nat} {s s' t : State} (h : R s s') (hrun : Host.Core.run core n s = .next t) :
    ∃ t', Host.Core.run core n s' = .next t' ∧ R t t' := by
  induction n generalizing s s' with
  | zero => cases hrun; exact ⟨s', rfl, h⟩
  | succ n ih =>
    obtain ⟨u, hstep, hrest⟩ := run_succ_next hrun
    obtain ⟨u', hstep', hu⟩ := hR h hstep
    rw [run_succ n hstep']
    exact ih hu hrest

section
variable {events : List Frame} {s s' t : State}

theorem applyReset_unobserved (h : s.Unobserved events s') (hr : s.rst ≠ none) :
    s.applyReset.Unobserved events s'.applyReset := by
  obtain ⟨-, hregs, hdraws⟩ := h.reset hr
  exact { h with
    phase := rfl
    rnd := rfl
    sreg := by simp [hregs, hdraws]
    rst := rfl
    stage := fun hrun => nomatch hrun
    reset := fun hrst => absurd rfl hrst }

/-- A STAGE step does not look at `OBSEN` but for its event. -/
theorem stage_unobserved (h : s.Unobserved events s') (hr : s.rst = none) (hp : s.phase = .run) (n : Nat) :
    ((s.runStage n).endStage n).Unobserved events ((s'.runStage n).endStage n) := by
  obtain ⟨hopreg, hrk, hobsen⟩ := h.stage hp
  constructor <;> simp [h.phase, h.rnd, h.sreg, h.rst, h.cmdPending, h.rsp, h.obs, hopreg, hrk, hobsen, hr]

theorem takeFrame_unobserved (h : s.Unobserved events s') (hr : s.rst = none) (hp : s.phase = .idle) :
    s.takeFrame.Unobserved events s'.takeFrame := by
  have hpending : s'.takeFrame.cmdPending = s.takeFrame.cmdPending.map withoutObserver := by
    cases hc : s.cmdPending <;> simp [State.takeFrame, hc, h.cmdPending]
  constructor <;> simp [h.phase, h.rnd, h.sreg, h.rst, hpending, h.rsp, h.obs, hr, hp]

theorem emitRsp_unobserved (h : s.Unobserved events s') (st : Status) (x : List Byte) :
    (s.emitRsp st x).Unobserved events (s'.emitRsp st x) :=
  { h with
    rsp := by simp [h.rsp]
    obs := by simp [h.obs] }

theorem bodyOf_unobserved_sreg (i : Instr) (h : s'.sreg = s.sreg) :
    (bodyOf i.unobserved s').sreg = (bodyOf i s).sreg := by
  cases i with
  | xtime | gfmul | subbyte | invsubbyte | expandkey => exact h
  | _ => rfl

theorem bodyOf_unobserved_rnd (i : Instr) (h : s'.rnd = s.rnd) :
    (bodyOf i.unobserved s').rnd = (bodyOf i s).rnd := by
  cases i with
  | encrypt | decrypt => rfl
  | _ => exact h

/-- A command latches the same from its frame with and without the request, but for `OBSEN`. -/
theorem bodyOf_unobserved (h : s.Unobserved events s') (hr : s.rst = none) (hp : s.phase = .idle) (i : Instr) :
    (bodyOf i s).Unobserved events (bodyOf i.unobserved s') where
  phase := by simp [h.phase]
  rnd := bodyOf_unobserved_rnd i h.rnd
  sreg := bodyOf_unobserved_sreg i h.sreg
  rst := by simp [h.rst]
  cmdPending := by simp [h.cmdPending]
  rsp := by simp [h.rsp, commandResult_unobserved]
  obs := by simp [h.obs]
  reset hrst := by simp [hr] at hrst
  stage hrun := by
    have hop : i.op = .encrypt ∨ i.op = .decrypt := by
      by_contra hop
      simp [hop, hp] at hrun
    obtain ⟨-, hopreg, -, -, hrk⟩ := bodyOf_cipher hop s
    obtain ⟨-, hopreg', hobsen', -, hrk'⟩ := bodyOf_cipher (i := i.unobserved) (by simpa using hop) s'
    simp [hopreg, hopreg', hobsen', hrk, hrk']

theorem exec_idle_unobserved (h : s.Unobserved events s') (hr : s.rst = none) (hp : s.phase = .idle) {i : Instr}
    (hexec : exec i s = .next t) : ∃ t', exec i.unobserved s' = .next t' ∧ t.Unobserved events t' := by
  have hp' : s'.phase = .idle := h.phase.trans hp
  rcases exec_idle_cases hp hexec with ⟨e, he, rfl⟩ | ⟨he, rfl⟩
  · exact ⟨_, exec_idle_error hp' (by simpa using he), emitRsp_unobserved h _ _⟩
  · exact ⟨_, exec_idle_ok hp' (by simpa using he), bodyOf_unobserved h hr hp i⟩

theorem step_unobserved (h : s.Unobserved events s') (hstep : step s = .next t) :
    ∃ t', step s' = .next t' ∧ t.Unobserved events t' := by
  rcases step_next_cases hstep with ⟨m, hr, hm, rfl⟩ | ⟨hr, hp, -, -⟩ | ⟨hr, hp, hn, rfl⟩ | ⟨hr, hp, hc, rfl⟩ |
    ⟨hr, hp, f, rest, hc, hframe⟩
  · exact ⟨_, (step_reset (h.rst.trans hr)).trans (resetStep_now fun hm' => h.phase.trans (hm hm')),
      applyReset_unobserved h (by simp [hr])⟩
  · obtain ⟨hidle, -⟩ := h.reset (by simp [hr])
    simp [hp] at hidle
  · refine ⟨_, (step_stage (h.rst.trans hr) (h.phase.trans hp)).trans (stage_ok (by rwa [h.rnd])), ?_⟩
    rw [h.rnd]
    exact stage_unobserved h hr hp _
  · exact ⟨s', step_wait (h.rst.trans hr) (h.phase.trans hp) (by simp [h.cmdPending, hc]), h⟩
  · have hr' := h.rst.trans hr
    have hp' := h.phase.trans hp
    have hc' : s'.cmdPending = withoutObserver f :: rest.map withoutObserver := by simp [h.cmdPending, hc]
    have htake := takeFrame_unobserved h hr hp
    rcases hframe with ⟨i, hd, hexec⟩ | ⟨hd, rfl⟩
    · rw [step_exec hr' hp' hc' (decode_withoutObserver_of_ok hd)]
      exact exec_idle_unobserved htake (by simpa using hr) (by simpa using hp) hexec
    · rw [withoutObserver_of_illegal hd] at hc'
      exact ⟨_, step_illegal hr' hp' hc' hd, emitRsp_unobserved htake _ _⟩

end

/-- Settles O56, a simulation by the relation `Unobserved`. -/
theorem observerNeverChangesResponses : Obligations.ObserverNeverChangesResponses := by
  intro n s t hp hrun
  obtain ⟨t', hrun', ht⟩ := run_simulates step_unobserved (.of_withoutObserver hp) hrun
  exact ⟨t', hrun', ht.rsp, ht.phase, ht.rnd, ht.sreg, ht.obs⟩

end Sys2Proof.Machine
end

section
/-! Multiplication in GF(2^8) modulo 0x11B (40_gf_arithmetic.md R110-R116). `gfMul` is linear in each operand and
commutes with `xtime`, and every byte arises from 1 by `xtime` and XOR: each law follows from these by induction
along that construction. -/

namespace Sys2Proof.Machine

/-! ## `xtime` -/

theorem xtime_eq (b : Byte) : xtime b = (b <<< 1) ^^^ (if b.getLsbD 7 then 0x1B else 0) := by
  by_cases h : b.getLsbD 7 = true
  · rw [xtime, if_pos h, if_pos h]
  · rw [xtime, if_neg h, if_neg h]
    exact BitVec.xor_zero.symm

@[simp] theorem xtime_zero : xtime 0 = 0 := rfl

/-- The reduction of a XOR is the XOR of the reductions: 0x1B is added for each high bit. -/
theorem xtime_xor (x y : Byte) : xtime (x ^^^ y) = xtime x ^^^ xtime y := by
  have hred : (if (x ^^^ y).getLsbD 7 then 0x1B else 0 : Byte) =
      (if x.getLsbD 7 then 0x1B else 0) ^^^ (if y.getLsbD 7 then 0x1B else 0) := by
    rw [BitVec.getLsbD_xor]
    cases x.getLsbD 7 <;> cases y.getLsbD 7 <;> rfl
  rw [xtime_eq, xtime_eq x, xtime_eq y, hred, BitVec.shiftLeft_xor_distrib]
  ac_rfl

/-! ## The loop -/

theorem gfMulLoop_zero_right (n : Nat) (r a : Byte) : gfMulLoop n r a 0 = r := by
  induction n generalizing a with
  | zero => rfl
  | succ n ih => exact ih (xtime a)

theorem gfMulLoop_xor_left (n : Nat) (r r' a a' b : Byte) :
    gfMulLoop n (r ^^^ r') (a ^^^ a') b = gfMulLoop n r a b ^^^ gfMulLoop n r' a' b := by
  induction n generalizing r r' a a' b with
  | zero => rfl
  | succ n ih =>
    simp only [gfMulLoop, xtime_xor, ← ih]
    cases b.getLsbD 0
    · rfl
    · have hacc : r ^^^ r' ^^^ (a ^^^ a') = r ^^^ a ^^^ (r' ^^^ a') := by ac_rfl
      simp only [if_true, hacc]

theorem gfMulLoop_xor_right (n : Nat) (r r' a b b' : Byte) :
    gfMulLoop n (r ^^^ r') a (b ^^^ b') = gfMulLoop n r a b ^^^ gfMulLoop n r' a b' := by
  induction n generalizing r r' a b b' with
  | zero => rfl
  | succ n ih =>
    simp only [gfMulLoop, BitVec.ushiftRight_xor_distrib, BitVec.getLsbD_xor, ← ih]
    congr 1
    cases b.getLsbD 0 <;> cases b'.getLsbD 0
    · rfl
    · exact BitVec.xor_assoc r r' a
    · show r ^^^ r' ^^^ a = r ^^^ a ^^^ r'
      ac_rfl
    · show r ^^^ r' = r ^^^ a ^^^ (r' ^^^ a)
      have hcancel : r ^^^ a ^^^ (r' ^^^ a) = r ^^^ r' ^^^ (a ^^^ a) := by ac_rfl
      rw [hcancel, BitVec.xor_self, BitVec.xor_zero]

theorem gfMulLoop_xtime (n : Nat) (r a b : Byte) :
    gfMulLoop n (xtime r) (xtime a) b = xtime (gfMulLoop n r a b) := by
  induction n generalizing r a b with
  | zero => rfl
  | succ n ih =>
    simp only [gfMulLoop, ← ih]
    cases b.getLsbD 0
    · rfl
    · simp only [if_true, xtime_xor]

/-- The loop builds its result from the accumulator and `a` by doubling and XOR alone. -/
theorem gfMulLoop_induction {P : Byte → Prop} (hxtime : ∀ x, P x → P (xtime x))
    (hxor : ∀ x y, P x → P y → P (x ^^^ y)) (n : Nat) {r a : Byte} (hr : P r) (ha : P a) (b : Byte) :
    P (gfMulLoop n r a b) := by
  induction n generalizing r a b with
  | zero => exact hr
  | succ n ih =>
    refine ih ?_ (hxtime a ha) _
    split
    · exact hxor r a hr ha
    · exact hr

/-! ## `gfMul` -/

@[simp] theorem gfMul_zero (a : Byte) : gfMul a 0 = 0 := gfMulLoop_zero_right 8 0 a

@[simp] theorem gfMul_one (a : Byte) : gfMul a 1 = a :=
  (gfMulLoop_zero_right 7 (0 ^^^ a) (xtime a)).trans BitVec.zero_xor

/-- The doublings of 1 are the eight bits: no reduction happens. -/
@[simp] theorem one_gfMul : ∀ b : Byte, gfMul 1 b = b := by decide +kernel

theorem xor_gfMul (a a' b : Byte) : gfMul (a ^^^ a') b = gfMul a b ^^^ gfMul a' b :=
  gfMulLoop_xor_left 8 0 0 a a' b

theorem gfMul_xor (a b b' : Byte) : gfMul a (b ^^^ b') = gfMul a b ^^^ gfMul a b' :=
  gfMulLoop_xor_right 8 0 0 a b b'

theorem xtime_gfMul (a b : Byte) : gfMul (xtime a) b = xtime (gfMul a b) := gfMulLoop_xtime 8 0 a b

/-- Every byte arises from 1 by doubling and XOR, because it is 1 times itself. -/
theorem byte_induction {P : Byte → Prop} (one : P 1) (double : ∀ x, P x → P (xtime x))
    (add : ∀ x y, P x → P y → P (x ^^^ y)) (b : Byte) : P b := by
  have hzero : P 0 := add 1 1 one one
  have hb : P (gfMul 1 b) := gfMulLoop_induction double add 8 hzero one b
  rwa [one_gfMul] at hb

theorem gfMul_xtime (a b : Byte) : gfMul a (xtime b) = xtime (gfMul a b) := by
  induction a using byte_induction with
  | one => simp only [one_gfMul]
  | double a ih => rw [xtime_gfMul, ih, xtime_gfMul]
  | add a a' ih ih' => rw [xor_gfMul, ih, ih', xor_gfMul, xtime_xor]

theorem gfMul_comm (a b : Byte) : gfMul a b = gfMul b a := by
  induction a using byte_induction with
  | one => rw [one_gfMul, gfMul_one]
  | double a ih => rw [xtime_gfMul, ih, gfMul_xtime]
  | add a a' ih ih' => rw [xor_gfMul, ih, ih', gfMul_xor]

theorem gfMul_assoc (a b c : Byte) : gfMul (gfMul a b) c = gfMul a (gfMul b c) := by
  induction a using byte_induction with
  | one => rw [one_gfMul, one_gfMul]
  | double a ih => rw [xtime_gfMul, xtime_gfMul, xtime_gfMul, ih]
  | add a a' ih ih' => rw [xor_gfMul, xor_gfMul, xor_gfMul, ih, ih']

@[simp] theorem zero_gfMul (b : Byte) : gfMul 0 b = 0 := by rw [gfMul_comm, gfMul_zero]

/-! ## `xtime` as a multiplication -/

theorem two_gfMul (b : Byte) : gfMul 0x02 b = xtime b := by
  rw [show (0x02 : Byte) = xtime 1 from rfl, xtime_gfMul, one_gfMul]

/-- 0x8D doubled is 1. -/
theorem xtime_8D_gfMul (b : Byte) : xtime (gfMul 0x8D b) = b := by
  rw [← xtime_gfMul, show xtime 0x8D = 1 from rfl, one_gfMul]

theorem gfMul_8D_xtime (b : Byte) : gfMul 0x8D (xtime b) = b := (gfMul_xtime 0x8D b).trans (xtime_8D_gfMul b)

/-- Settles O30: `xtime` is multiplication by 2, and 0x8D is the inverse of 2. -/
theorem xtimeLaws : Obligations.XtimeLaws :=
  ⟨xtime_xor, Function.LeftInverse.injective gfMul_8D_xtime, fun y => ⟨gfMul 0x8D y, xtime_8D_gfMul y⟩,
    gfMul_8D_xtime, fun b => ⟨by rw [gfMul_comm, two_gfMul], (two_gfMul b).symm⟩⟩

/-! ## Inverses -/

/-- `a ^ 2 * a ^ 4 * ... * a ^ (2 ^ n)`, by repeated squaring. -/
def squaresProduct : (n : Nat) → (a : Byte) → Byte
  | 0, _ => 1
  | n + 1, a => gfMul (gfMul a a) (squaresProduct n (gfMul a a))

/-- `a ^ 254`, the inverse of a non-zero byte: the field has 255 non-zero elements. -/
def gfInverse (a : Byte) : Byte := squaresProduct 7 a

theorem gfMul_gfInverse : ∀ a : Byte, a ≠ 0 → gfMul a (gfInverse a) = 1 := by decide +kernel

/-- Two inverses of one byte are equal, as in every commutative monoid. -/
theorem eq_of_gfMul_eq_one {a b c : Byte} (hb : gfMul a b = 1) (hc : gfMul a c = 1) : c = b := by
  calc c = gfMul (gfMul a b) c := by rw [hb, one_gfMul]
    _ = gfMul b (gfMul a c) := by rw [gfMul_comm a b, gfMul_assoc]
    _ = b := by rw [hc, gfMul_one]

/-! ## The coefficients of the column matrices (R115) -/

/-- Each coefficient is a XOR of doublings of 1, and multiplication by it the XOR of the same doublings. -/
theorem gfMul_coefficients (x : Byte) : gfMul 2 x = xtime x ∧ gfMul 3 x = xtime x ^^^ x ∧
    gfMul 9 x = xtime (xtime (xtime x)) ^^^ x ∧
    gfMul 0x0b x = xtime (xtime (xtime x)) ^^^ xtime x ^^^ x ∧
    gfMul 0x0d x = xtime (xtime (xtime x)) ^^^ xtime (xtime x) ^^^ x ∧
    gfMul 0x0e x = xtime (xtime (xtime x)) ^^^ xtime (xtime x) ^^^ xtime x := by
  have h3 : (3 : Byte) = xtime 1 ^^^ 1 := rfl
  have h9 : (9 : Byte) = xtime (xtime (xtime 1)) ^^^ 1 := rfl
  have hb : (0x0b : Byte) = xtime (xtime (xtime 1)) ^^^ xtime 1 ^^^ 1 := rfl
  have hd : (0x0d : Byte) = xtime (xtime (xtime 1)) ^^^ xtime (xtime 1) ^^^ 1 := rfl
  have he : (0x0e : Byte) = xtime (xtime (xtime 1)) ^^^ xtime (xtime 1) ^^^ xtime 1 := rfl
  rw [h3, h9, hb, hd, he]
  simp only [two_gfMul, xor_gfMul, xtime_gfMul, one_gfMul, and_self]

/-- Settles O31, one lemma for each law. -/
theorem fieldLaws : Obligations.FieldLaws :=
  ⟨gfMul_comm, fun a x y => ⟨gfMul_xor a x y, xor_gfMul x y a⟩, gfMul_assoc,
    fun a => ⟨one_gfMul a, gfMul_one a, zero_gfMul a, gfMul_zero a⟩,
    fun a ha => ⟨gfInverse a, gfMul_gfInverse a ha, fun _ hc => eq_of_gfMul_eq_one (gfMul_gfInverse a ha) hc⟩,
    gfMul_coefficients⟩

end Sys2Proof.Machine
end

section
/-! The arithmetic of 40_gf_arithmetic.md as arithmetic on polynomials, and the commands XTIME and GFMUL (R110,
R111, R113, R114, R116). The remainder modulo 0x11B is linear, and doubling a polynomial doubles its remainder with
`xtime`: so both products are the XOR of the same doublings. -/

namespace Sys2Proof.Machine

/-! ## Long division -/

/-- One step of the long division: the term of degree `i + 8` is cancelled. -/
def reduceStep (p i : Nat) : Nat := if p.testBit (i + 8) then p ^^^ (0x11B <<< i) else p

/-- The remainder of a polynomial, as a byte. -/
def remainder (p : Nat) : Byte := BitVec.ofNat 8 (polyReduce p)

theorem polyReduce_eq (p : Nat) : polyReduce p = [6, 5, 4, 3, 2, 1, 0].foldl reduceStep p := rfl

theorem reduceStep_eq_self {p i : Nat} (h : p.testBit (i + 8) = false) : reduceStep p i = p := by
  simp [reduceStep, h]

theorem reduceStep_eq_xor (p i : Nat) :
    reduceStep p i = p ^^^ (if p.testBit (i + 8) then 0x11B <<< i else 0) := by
  by_cases h : p.testBit (i + 8) = true
  · rw [reduceStep, if_pos h, if_pos h]
  · rw [reduceStep, if_neg h, if_neg h, Nat.xor_zero]

theorem reduceStep_xor (p q i : Nat) : reduceStep (p ^^^ q) i = reduceStep p i ^^^ reduceStep q i := by
  have hred : (if (p ^^^ q).testBit (i + 8) then 0x11B <<< i else 0) =
      (if p.testBit (i + 8) then 0x11B <<< i else 0) ^^^ (if q.testBit (i + 8) then 0x11B <<< i else 0) := by
    rw [Nat.testBit_xor]
    cases p.testBit (i + 8) <;> cases q.testBit (i + 8) <;> simp
  rw [reduceStep_eq_xor, reduceStep_eq_xor p, reduceStep_eq_xor q, hred]
  ac_rfl

theorem testBit_two_mul (p i : Nat) : (2 * p).testBit (i + 1) = p.testBit i := by
  rw [Nat.testBit_succ, Nat.mul_div_cancel_left p (by decide)]

/-- Doubling a polynomial shifts its division by one step. -/
theorem reduceStep_two_mul (p i : Nat) : reduceStep (2 * p) (i + 1) = 2 * reduceStep p i := by
  have hbit : (2 * p).testBit (i + 1 + 8) = p.testBit (i + 8) := testBit_two_mul p (i + 8)
  have hdouble (x y : Nat) : 2 * x ^^^ 2 * y = 2 * (x ^^^ y) := by
    simpa [Nat.shiftLeft_eq, Nat.mul_comm] using (Nat.shiftLeft_xor_distrib (i := 1) (a := x) (b := y)).symm
  cases h : p.testBit (i + 8) <;> simp [reduceStep, hbit, h, Nat.shiftLeft_succ, hdouble]

/-! ## Remainders -/

theorem remainder_xor (p q : Nat) : remainder (p ^^^ q) = remainder p ^^^ remainder q := by
  rw [remainder, polyReduce_eq, List.foldl_hom₂ _ (· ^^^ ·) reduceStep reduceStep reduceStep p q
    fun p q i => (reduceStep_xor p q i).symm]
  exact BitVec.ofNat_xor

/-- A polynomial of degree below 8 is its own remainder. -/
theorem remainder_toNat (a : Byte) : remainder a.toNat = a := by
  have hdegree (i : Nat) : a.toNat < 2 ^ (i + 8) :=
    a.isLt.trans_le (Nat.pow_le_pow_right (by decide) (Nat.le_add_left 8 i))
  have hstep (i : Nat) : reduceStep a.toNat i = a.toNat := reduceStep_eq_self (Nat.testBit_lt_two_pow (hdegree i))
  rw [remainder, polyReduce_eq, List.foldl_fixed' hstep]
  exact BitVec.ofNat_toNat 8 a

/-- The last step of the division of a doubled polynomial is the reduction of `xtime` (R110). -/
theorem ofNat_two_mul_reduced (q : Nat) :
    BitVec.ofNat 8 (2 * q ^^^ (if q.testBit 7 then 0x11B else 0)) = xtime (BitVec.ofNat 8 q) := by
  have hshift : BitVec.ofNat 8 (2 * q) = BitVec.ofNat 8 q <<< 1 := by
    rw [BitVec.shiftLeft_eq_mul_twoPow, Nat.mul_comm, BitVec.ofNat_mul]; rfl
  have hbit : (BitVec.ofNat 8 q).getLsbD 7 = q.testBit 7 := by rw [BitVec.getLsbD_ofNat]; rfl
  rw [xtime_eq, BitVec.ofNat_xor, hshift, hbit]
  cases q.testBit 7 <;> rfl

/-- Long division follows `xtime`, as long as the degree of the double is at most 14. -/
theorem remainder_two_mul {p : Nat} (h : p < 2 ^ 14) : remainder (2 * p) = xtime (remainder p) := by
  have hfirst : reduceStep p 6 = p := reduceStep_eq_self (Nat.testBit_lt_two_pow h)
  have hshifted : [6, 5, 4, 3, 2, 1].foldl reduceStep (2 * p) = 2 * [5, 4, 3, 2, 1, 0].foldl reduceStep p := by
    rw [← List.foldl_hom (2 * ·) (g₂ := fun p i => reduceStep p (i + 1)) reduceStep_two_mul]; rfl
  have hquot : polyReduce p = [5, 4, 3, 2, 1, 0].foldl reduceStep p := by rw [polyReduce_eq, List.foldl_cons, hfirst]
  have hdouble : polyReduce (2 * p) = 2 * polyReduce p ^^^ (if (polyReduce p).testBit 7 then 0x11B else 0) := by
    rw [polyReduce_eq (2 * p), show [6, 5, 4, 3, 2, 1, 0] = [6, 5, 4, 3, 2, 1] ++ [0] from rfl, List.foldl_append,
      hshifted, ← hquot, List.foldl_cons, List.foldl_nil, reduceStep_eq_xor, Nat.zero_add, testBit_two_mul]
    rfl
  rw [remainder, hdouble, ofNat_two_mul_reduced, remainder]

/-- The shifts of a byte that a product adds up are the doublings of `xtime`. -/
theorem remainder_shiftLeft (a : Byte) {i : Nat} (h : i ≤ 7) : remainder (a.toNat <<< i) = xtime^[i] a := by
  induction i with
  | zero => exact remainder_toNat a
  | succ i ih =>
    have hbound : a.toNat <<< i < 2 ^ 14 := by
      rw [Nat.shiftLeft_eq]
      calc a.toNat * 2 ^ i < 2 ^ 8 * 2 ^ i := Nat.mul_lt_mul_of_pos_right a.isLt (Nat.two_pow_pos i)
        _ = 2 ^ (8 + i) := (Nat.pow_add 2 8 i).symm
        _ ≤ 2 ^ 14 := Nat.pow_le_pow_right (by decide) (by omega)
    rw [Nat.shiftLeft_succ, remainder_two_mul hbound, ih (by omega), Function.iterate_succ_apply']

/-! ## Products -/

/-- What the loop adds up: the doublings of `a` at the bits of `b`. -/
theorem gfMulLoop_eq_foldl (n : Nat) (r a b : Byte) :
    gfMulLoop n r a b =
      (List.range n).foldl (fun p i => if b.getLsbD i then p ^^^ xtime^[i] a else p) r := by
  induction n generalizing r a b with
  | zero => rfl
  | succ n ih =>
    rw [gfMulLoop, ih, List.range_succ_eq_map, List.foldl_cons, List.foldl_map]
    simp only [BitVec.getLsbD_ushiftRight, Nat.add_comm 1, Function.iterate_succ_apply, Function.iterate_zero,
      id_eq, Nat.succ_eq_add_one]

/-- R116: the loop of R113 computes the remainder of the polynomial product. -/
theorem fieldProduct_eq_gfMul (a b : Byte) : fieldProduct a b = gfMul a b := by
  have hstep (p i : Nat) : (if b.toNat.testBit i then remainder p ^^^ remainder (a.toNat <<< i) else remainder p) =
      remainder (if b.toNat.testBit i then p ^^^ (a.toNat <<< i) else p) := by
    rw [apply_ite remainder, remainder_xor]
  have hshift (p : Byte) (i : Nat) (hi : i ∈ List.range 8) :
      (if b.toNat.testBit i then p ^^^ remainder (a.toNat <<< i) else p) =
        if b.getLsbD i then p ^^^ xtime^[i] a else p := by
    rw [remainder_shiftLeft a (Nat.le_of_lt_succ (List.mem_range.1 hi)), BitVec.testBit_toNat]
  calc fieldProduct a b = remainder (polyProduct a.toNat b.toNat) := rfl
    _ = (List.range 8).foldl
          (fun p i => if b.toNat.testBit i then p ^^^ remainder (a.toNat <<< i) else p) (remainder 0) :=
        (List.foldl_hom remainder hstep).symm
    _ = (List.range 8).foldl (fun p i => if b.getLsbD i then p ^^^ xtime^[i] a else p) 0 :=
        List.foldl_ext _ _ _ hshift
    _ = gfMul a b := (gfMulLoop_eq_foldl 8 0 a b).symm

/-- R110 as arithmetic modulo 0x11B. -/
theorem ofNat_double_eq_xtime (b : Byte) :
    BitVec.ofNat 8 (2 * b.toNat ^^^ (if 128 ≤ b.toNat then 0x11B else 0)) = xtime b := by
  have hbit : (b.toNat.testBit 7 = true) = (128 ≤ b.toNat) := by
    rw [Nat.testBit_eq_decide_div_mod_eq]
    have := b.isLt
    simp only [decide_eq_true_eq, eq_iff_iff]
    omega
  have h := ofNat_two_mul_reduced b.toNat
  simp only [hbit] at h
  exact h.trans (congrArg xtime (BitVec.ofNat_toNat 8 b))

/-! ## A command answered in one step -/

/-- A frame of an operation other than the two cipher operations is illegal when any bit of `FLAGS` is set (R83,
R87). -/
theorem decode_flags_illegal {o : Op} (ho : ¬ (o = .encrypt ∨ o = .decrypt)) {flags blen klen : Byte}
    {payload : List Byte} (hflags : flags ≠ 0) (hlen : payload.length = blen.toNat + klen.toNat) :
    decode (o.code :: flags :: blen :: klen :: payload) = .error .illegalCommand := by
  refine (decode_cons_eq_illegal_iff ..).2 ⟨hlen, ?_⟩
  rintro ⟨o', hcode, hmask⟩
  obtain rfl := Op.code_inj hcode
  rw [Op.flagsMask, if_neg ho] at hmask
  exact hflags (BitVec.and_allOnes.symm.trans hmask)

/-- R228, R262: the length checks, the illegal frames and what else changes are the same for all commands answered in
one step; only the effect of the body is the command's own. -/
theorem commandMeaning_of_body {o : Op} (ho : ¬ (o = .encrypt ∨ o = .decrypt))
    {result : List Byte → List Byte → List Byte} {written : List Byte → List Byte → State → State}
    (hbody : ∀ s a b, a.length = lenA o → b.length = lenB o → bodyOf (.build o false a b) s =
      { written a b s with out := s.out ++ [.response (responseFrame .ok (result a b))] }) :
    CommandMeaning (.build o false) o.code (lenA o) (lenB o) (lenErrorA o).code (lenErrorB o).code result written := by
  refine ⟨fun s a b hp => ⟨fun ha => ?_, fun ha hb => ?_, fun ha hb => ?_⟩,
    fun s flags blen klen payload rest hr hp hflags hlen hc => ?_⟩
  · exact exec_idle_error hp (by simpa using checkLengths_wrongA b ha)
  · exact exec_idle_error hp (by simpa using checkLengths_wrongB ha hb)
  · rw [exec_idle_ok hp (by simpa using checkLengths_ok ha hb), hbody s a b ha hb]
    rfl
  · rw [step_illegal hr hp hc (decode_flags_illegal ho hflags hlen), State.takeFrame_of_cons s _ rest hc]
    rfl

/-- Settles O15: the body of XTIME answers the reduced double. -/
theorem xtimeMeaning : Obligations.XtimeMeaning :=
  commandMeaning_of_body (o := .xtime) (by decide) fun s a b _ _ => by
    rw [ofNat_double_eq_xtime]; rfl

/-- Settles O16: the body of GFMUL answers the remainder of the polynomial product. -/
theorem gfmulMeaning : Obligations.GfmulMeaning :=
  commandMeaning_of_body (o := .gfmul) (by decide) fun s a b _ _ => by
    rw [fieldProduct_eq_gfMul]; rfl

end Sys2Proof.Machine
end

section
/-! The substitution tables and the commands SUBBYTE and INVSUBBYTE (41_substitution_tables.md R130, R131, R133-R135).
A table is read by row and column; where every row has 16 entries, that is the entry at the byte's own place in the
list of all entries. -/

namespace Sys2Proof.Machine

/-! ## Table reads -/

/-- Row `n / k`, column `n % k` is entry `n`, when every row has `k` entries. -/
theorem getD_flatten_of_uniform {α : Type} {k : Nat} (hk : 0 < k) {rows : List (List α)}
    (h : ∀ r ∈ rows, r.length = k) (n : Nat) (d : α) :
    rows.flatten.getD n d = (rows.getD (n / k) []).getD (n % k) d := by
  induction rows generalizing n with
  | nil => rfl
  | cons r rows ih =>
    obtain ⟨hr, hrows⟩ := List.forall_mem_cons.1 h
    rw [List.flatten_cons]
    rcases Nat.lt_or_ge n k with hn | hn
    · rw [List.getD_append _ _ _ _ (hn.trans_eq hr.symm), Nat.div_eq_of_lt hn, Nat.mod_eq_of_lt hn,
        List.getD_cons_zero]
    · rw [List.getD_append_right _ _ _ _ (hr.trans_le hn), hr, ih hrows, Nat.div_eq_sub_div hk hn,
        Nat.mod_eq_sub_mod hn, List.getD_cons_succ]

theorem getD_flatten_eq_tableEntry {rows : List (List Byte)} (h : ∀ r ∈ rows, r.length = 16) (x : Byte) :
    rows.flatten.getD x.toNat 0 = tableEntry rows x := getD_flatten_of_uniform (by decide) h x.toNat 0

theorem getD_sboxRows (x : Byte) : sboxRows.flatten.getD x.toNat 0 = subByte x :=
  getD_flatten_eq_tableEntry (by decide) x

theorem getD_invSboxRows (x : Byte) : invSboxRows.flatten.getD x.toNat 0 = invSubByte x :=
  getD_flatten_eq_tableEntry (by decide) x

/-! ## The commands -/

/-- Settles O17: the body of SUBBYTE answers the table's entry. -/
theorem subbyteMeaning : Obligations.SubbyteMeaning :=
  commandMeaning_of_body (o := .subbyte) (by decide) fun s a b _ _ => by
    rw [getD_sboxRows]; rfl

/-- Settles O18: the body of INVSUBBYTE answers the table's entry. -/
theorem invsubbyteMeaning : Obligations.InvsubbyteMeaning :=
  commandMeaning_of_body (o := .invsubbyte) (by decide) fun s a b _ _ => by
    rw [getD_invSboxRows]; rfl

/-! ## The contents of the tables -/

@[simp] theorem invSubByte_subByte : ∀ b : Byte, invSubByte (subByte b) = b := by decide +kernel

@[simp] theorem subByte_invSubByte : ∀ b : Byte, subByte (invSubByte b) = b := by decide +kernel

/-- Settles O32: the round trips over all entries, and the byte 0 read twice. -/
theorem tablesAreMutualInverses : Obligations.TablesAreMutualInverses :=
  ⟨fun b => ⟨invSubByte_subByte b, subByte_invSubByte b⟩, rfl, rfl, 0x00, by decide⟩

theorem gfInverse_zero : gfInverse 0 = 0 := by rw [gfInverse, squaresProduct, zero_gfMul, zero_gfMul]

/-- R130, its second paragraph, over all entries: `gfInverse` is the inverse that sends 0 to 0. -/
theorem subByte_getLsbD : ∀ (x : Byte) (i : Nat), i < 8 → (subByte x).getLsbD i = affineBit (gfInverse x) i := by
  decide +kernel

/-- Settles O33: the inverse is the 254th power. -/
theorem sboxIsAffineOfInverse : Obligations.SboxIsAffineOfInverse := fun x =>
  ⟨gfInverse x, fun hx => by rw [hx, gfInverse_zero], gfMul_gfInverse x, subByte_getLsbD x⟩

end Sys2Proof.Machine
end

section
/-! The key schedule (42_key_schedule.md R150-R157): every word of the buffer after an expansion, the round keys as
its slices, and the command EXPANDKEY. -/

namespace Sys2Proof.Machine

/-! ## The words after an expansion (R151, R154) -/

theorem scheduleTemp_congr {w w' : WordBuffer} {i : Nat} (h : wordAt w (i - 1) = wordAt w' (i - 1)) :
    scheduleTemp w i = scheduleTemp w' i := by
  simp only [scheduleTemp, h]

/-- Generating a word needs its place only: the words before it stay. -/
theorem wordAt_generateWords_of_lt {n i j : Nat} (h : j < i) (w : WordBuffer) :
    wordAt (generateWords n i w) j = wordAt w j := by
  induction n generalizing i w with
  | zero => rfl
  | succ n ih => rw [generateWords, ih (by omega), generateWord, wordAt_setIfInBounds_ne (by omega)]

/-- Each generated word meets the recurrence in the finished buffer, because its operands are never written again. -/
theorem wordAt_generateWords {n i j : Nat} (hi : 8 ≤ i) (hij : i ≤ j) (hjn : j < i + n) (hj : j < 60)
    (w : WordBuffer) :
    wordAt (generateWords n i w) j =
      (wordAt (generateWords n i w) (j - 8)).xor (scheduleTemp (generateWords n i w) j) := by
  induction n generalizing i w with
  | zero => omega
  | succ n ih =>
    rcases Nat.eq_or_lt_of_le hij with rfl | hlt
    · have hback := wordAt_generateWords_of_lt (n := n + 1) (show i - 8 < i by omega) w
      have htemp := scheduleTemp_congr (wordAt_generateWords_of_lt (n := n + 1) (show i - 1 < i by omega) w)
      rw [hback, htemp, generateWords, wordAt_generateWords_of_lt (Nat.lt_succ_self i), generateWord,
        wordAt_setIfInBounds_same hj]
    · exact ih (by omega) hlt (by omega) _

/-- R154, its five steps in one equation. -/
theorem wordAt_fillWords {i : Nat} (hlow : 8 ≤ i) (hhigh : i < 60) (w : WordBuffer) (k : Key) :
    wordAt (fillWords w k) i = (wordAt (fillWords w k) (i - 8)).xor (scheduleTemp (fillWords w k) i) :=
  wordAt_generateWords (Nat.le_refl 8) hlow hhigh hhigh _

/-- The loaded words stay. -/
theorem wordAt_fillWords_of_lt {i : Nat} (hi : i < 8) (w : WordBuffer) (k : Key) :
    wordAt (fillWords w k) i = wordAt (loadKey w k) i := wordAt_generateWords_of_lt hi _

theorem wordAt_loadKey_toList {i : Nat} (hi : i < 8) (w : WordBuffer) (k : Key) :
    (wordAt (loadKey w k) i).toList = (k.toList.drop (4 * i)).take 4 := by
  interval_cases i <;> simp [loadKey, wordAt] <;> rfl

/-- The entries of `RCON` that the schedule reads are powers of 2 (R132). -/
theorem rcon_eq_two_pow {j : Nat} (hlow : 1 ≤ j) (hhigh : j < 8) :
    rcon (BitVec.ofNat 3 j) = BitVec.ofNat 8 (2 ^ (j - 1)) := by
  interval_cases j <;> rfl

/-- R154 steps 1 to 4, byte by byte. -/
theorem scheduleTemp_eq {i : Nat} (hlow : 8 ≤ i) (hhigh : i < 60) (w : WordBuffer) :
    scheduleTemp w i =
      if i % 8 = 0 then
        ⟨subByte (wordAt w (i - 1)).b1 ^^^ BitVec.ofNat 8 (2 ^ (i / 8 - 1)), subByte (wordAt w (i - 1)).b2,
          subByte (wordAt w (i - 1)).b3, subByte (wordAt w (i - 1)).b0⟩
      else if i % 8 = 4 then (wordAt w (i - 1)).map subByte
      else wordAt w (i - 1) := by
  rw [← rcon_eq_two_pow (by omega) (by omega)]
  rfl

/-- Settles O34: the loaded words stay, and every later one meets the recurrence. -/
theorem keyScheduleRecurrence : Obligations.KeyScheduleRecurrence := by
  refine fun w k => ⟨fun i hi => ?_, fun i hlow hhigh => ?_⟩
  · rw [wordAt_fillWords_of_lt hi, wordAt_loadKey_toList hi]
  · exact (wordAt_fillWords hlow hhigh w k).trans (congrArg _ (scheduleTemp_eq hlow hhigh _))

/-- Settles O35: the loaded words agree, and each generated word reads words below it. -/
theorem expansionIgnoresTheOldBuffer : Obligations.ExpansionIgnoresTheOldBuffer := fillWords_eq_of_any_buffer

/-! ## The round keys (R155) -/

/-- A round key is four consecutive words, its columns. -/
theorem sliceRoundKey_eq (w : WordBuffer) (k : Nat) :
    sliceRoundKey w k = ⟨wordAt w (4 * k), wordAt w (4 * k + 1), wordAt w (4 * k + 2), wordAt w (4 * k + 3)⟩ := rfl

theorem sliceRoundKey_col (w : WordBuffer) (k : Nat) (c : Fin 4) :
    (sliceRoundKey w k).col c = wordAt w (4 * k + c.val) := by
  match c with
  | 0 | 1 | 2 | 3 => rfl

theorem roundKey_sliceRoundKeys {k : Nat} (hk : k < 15) (w : WordBuffer) :
    roundKey (sliceRoundKeys w) k = sliceRoundKey w k := by
  simp [roundKey, sliceRoundKeys, hk]

theorem roundKey_expandKey {k : Nat} (hk : k < 15) (key : Key) :
    roundKey (expandKey key) k = sliceRoundKey (fillWords (Vector.replicate 60 Word.zero) key) k :=
  roundKey_sliceRoundKeys hk _

/-- Settles O36: byte `j` of a round key is byte `j mod 4` of its column `j div 4`. -/
theorem roundKeysAreSlicesOfTheWords : Obligations.RoundKeysAreSlicesOfTheWords := by
  refine fun s key => ⟨rfl, rfl, fun k j hk => ?_⟩
  rw [State.expandInto_rk, State.expandInto_w, roundKey_sliceRoundKeys hk, Block.byte, Block.cell, sliceRoundKey_col]

/-! ## The first two round keys are the key (R157) -/

/-- Round keys 0 and 1 are cut from the loaded words. -/
theorem sliceRoundKey_fillWords {k : Nat} (hk : k < 2) (w : WordBuffer) (key : Key) :
    sliceRoundKey (fillWords w key) k = sliceRoundKey (loadKey w key) k := by
  simp (disch := omega) only [sliceRoundKey_eq, wordAt_fillWords_of_lt]

theorem roundKey_expandKey_zero (k : Key) : roundKey (expandKey k) 0 = ⟨k.w0, k.w1, k.w2, k.w3⟩ := by
  rw [roundKey_expandKey (by decide), sliceRoundKey_fillWords (by decide), sliceRoundKey_eq]
  simp [loadKey, wordAt]

theorem roundKey_expandKey_one (k : Key) : roundKey (expandKey k) 1 = ⟨k.w4, k.w5, k.w6, k.w7⟩ := by
  rw [roundKey_expandKey (by decide), sliceRoundKey_fillWords (by decide), sliceRoundKey_eq]
  simp [loadKey, wordAt]

theorem key_eq_of_roundKeys_eq {k k' : Key} (h0 : roundKey (expandKey k) 0 = roundKey (expandKey k') 0)
    (h1 : roundKey (expandKey k) 1 = roundKey (expandKey k') 1) : k = k' := by
  rw [roundKey_expandKey_zero, roundKey_expandKey_zero] at h0
  rw [roundKey_expandKey_one, roundKey_expandKey_one] at h1
  cases k
  cases k'
  cases h0
  cases h1
  rfl

/-! ## The bytes of the expansion (R156) -/

theorem wordBuffer_toList (w : WordBuffer) : w.toList = (List.range 60).map (wordAt w) := by
  refine List.ext_getElem (by simp) fun i hi _ => ?_
  have hi60 : i < 60 := by simpa using hi
  simp [wordAt, hi60]

/-- Fifteen round keys of four words are the sixty words in order. -/
theorem roundKeyBytes_sliceRoundKeys (w : WordBuffer) :
    roundKeyBytes (sliceRoundKeys w) = w.toList.flatMap Word.toList := by
  have hrange : List.range 60 = (List.range 15).flatMap fun k => [4 * k, 4 * k + 1, 4 * k + 2, 4 * k + 3] := rfl
  have hblock (k : Nat) : (sliceRoundKey w k).toList =
      [4 * k, 4 * k + 1, 4 * k + 2, 4 * k + 3].flatMap fun i => (wordAt w i).toList := rfl
  calc roundKeyBytes (sliceRoundKeys w) = (List.range 15).flatMap fun k => (sliceRoundKey w k).toList :=
        List.flatMap_map ..
    _ = (List.range 60).flatMap fun i => (wordAt w i).toList := by simp only [hblock, hrange, List.flatMap_assoc]
    _ = w.toList.flatMap Word.toList := by rw [wordBuffer_toList, List.flatMap_map]

theorem roundKeyBytes_take (rk : RoundKeys) :
    (roundKeyBytes rk).take 32 = (roundKey rk 0).toList ++ (roundKey rk 1).toList := by
  match rk with
  | ⟨⟨_ :: _ :: _⟩, _⟩ => rfl

/-- Settles O37: the first two round keys are the loaded words, and the response begins with them. -/
theorem firstTwoRoundKeysAreTheKey : Obligations.FirstTwoRoundKeysAreTheKey := by
  refine fun k => ⟨?_, ?_, ?_, roundKeyBytes_length _⟩
  · rw [roundKey_expandKey_zero]; rfl
  · rw [roundKey_expandKey_one]; rfl
  · rw [roundKeyBytes_take, roundKey_expandKey_zero, roundKey_expandKey_one]; rfl

/-! ## The schedule runs backwards (R157 (e)) -/

/-- The two buffers hold the same eight words from index `i` on. -/
def AgreeOnEight (i : Nat) (w w' : WordBuffer) : Prop := ∀ j, i ≤ j → j < i + 8 → wordAt w j = wordAt w' j

/-- A word is known from the word 8 later and the one before that (R154 step 5, solved for `W[i-8]`). -/
theorem wordAt_fillWords_back {i : Nat} (hi : i + 8 < 60) (w : WordBuffer) (k : Key) :
    wordAt (fillWords w k) i = (wordAt (fillWords w k) (i + 8)).xor (scheduleTemp (fillWords w k) (i + 8)) := by
  rw [wordAt_fillWords (Nat.le_add_left 8 i) hi, Nat.add_sub_cancel, Word.xor_xor_cancel]

theorem agreeOnEight_pred {i : Nat} (hi : i + 8 < 60) {w w' : WordBuffer} {k k' : Key}
    (h : AgreeOnEight (i + 1) (fillWords w k) (fillWords w' k')) :
    AgreeOnEight i (fillWords w k) (fillWords w' k') := by
  intro j hlow hhigh
  rcases Nat.eq_or_lt_of_le hlow with rfl | hlt
  · have htemp := scheduleTemp_congr (i := i + 8) (h _ (by omega) (by omega))
    rw [wordAt_fillWords_back hi, wordAt_fillWords_back hi, h _ (by omega) (by omega), htemp]
  · exact h j hlt (by omega)

theorem agreeOnEight_zero {i : Nat} (hi : i + 8 ≤ 60) {w w' : WordBuffer} {k k' : Key}
    (h : AgreeOnEight i (fillWords w k) (fillWords w' k')) : AgreeOnEight 0 (fillWords w k) (fillWords w' k') := by
  induction i with
  | zero => exact h
  | succ i ih => exact ih (by omega) (agreeOnEight_pred (by omega) h)

/-- Two consecutive round keys are eight consecutive words. -/
theorem agreeOnEight_iff_roundKeys {n : Nat} (hn : n + 1 < 15) (k k' : Key) :
    AgreeOnEight (4 * n) (fillWords (Vector.replicate 60 Word.zero) k) (fillWords (Vector.replicate 60 Word.zero) k') ↔
      roundKey (expandKey k) n = roundKey (expandKey k') n ∧
        roundKey (expandKey k) (n + 1) = roundKey (expandKey k') (n + 1) := by
  simp (disch := omega) only [roundKey_expandKey, sliceRoundKey_eq, Block.mk.injEq, Nat.mul_succ, Nat.add_assoc,
    Nat.reduceAdd]
  constructor
  · intro h
    refine ⟨⟨?_, ?_, ?_, ?_⟩, ?_, ?_, ?_, ?_⟩ <;> exact h _ (by omega) (by omega)
  · rintro ⟨⟨h0, h1, h2, h3⟩, h4, h5, h6, h7⟩ j hlow hhigh
    obtain ⟨d, rfl⟩ := Nat.exists_eq_add_of_le hlow
    have hd : d < 8 := by omega
    interval_cases d <;> assumption

/-- Settles O38: the schedule is run backwards from the two round keys to the first eight words. -/
theorem twoRoundKeysDetermineTheKey : Obligations.TwoRoundKeysDetermineTheKey := by
  intro k k' m hm heven hodd
  have hlate := (agreeOnEight_iff_roundKeys (by omega) k k').2 ⟨heven, hodd⟩
  obtain ⟨h0, h1⟩ := (agreeOnEight_iff_roundKeys (n := 0) (by decide) k k').1 (agreeOnEight_zero (by omega) hlate)
  exact key_eq_of_roundKeys_eq h0 h1

/-! ## EXPANDKEY (R156) -/

/-- What an expansion writes depends on the key alone. -/
theorem expandInto_eq (s : State) (k : Key) :
    s.expandInto k =
      { s with
        keyreg := k
        w := fillWords (Vector.replicate 60 Word.zero) k
        rk := expandKey k } := by
  rw [State.expandInto, fillWords_eq_of_any_buffer s.w (Vector.replicate 60 Word.zero), expandKey]

/-- Settles O19: the body of EXPANDKEY answers the buffer in order. -/
theorem expandkeyMeaning : Obligations.ExpandkeyMeaning :=
  commandMeaning_of_body (o := .expandkey) (by decide) fun s a b _ _ => by
    rw [← roundKeyBytes_sliceRoundKeys]
    simp only [Instr.build, bodyOf, expandInto_eq]
    rfl

end Sys2Proof.Machine
end

section
/-! The cells of a block (00_scope.md R13, 20_memory.md R56): the byte of each row and column under the block
operations, and the linear order of the cells. -/

namespace Sys2Proof

theorem Word.get_ofFn (f : Fin 4 → Byte) (r : Fin 4) : (Word.ofFn f).get r = f r := by
  match r with
  | 0 | 1 | 2 | 3 => rfl

theorem Word.get_map (f : Byte → Byte) (x : Word) (r : Fin 4) : (x.map f).get r = f (x.get r) := by
  match r with
  | 0 | 1 | 2 | 3 => rfl

theorem Word.get_xor (x y : Word) (r : Fin 4) : (x.xor y).get r = x.get r ^^^ y.get r := by
  match r with
  | 0 | 1 | 2 | 3 => rfl

theorem Block.col_mapColumns (f : Word → Word) (x : Block) (c : Fin 4) : (x.mapColumns f).col c = f (x.col c) := by
  match c with
  | 0 | 1 | 2 | 3 => rfl

theorem Block.col_xor (x y : Block) (c : Fin 4) : (x.xor y).col c = (x.col c).xor (y.col c) := by
  match c with
  | 0 | 1 | 2 | 3 => rfl

theorem Block.col_ofFn (f : (r c : Fin 4) → Byte) (c : Fin 4) : (Block.ofFn f).col c = .ofFn (f · c) := by
  match c with
  | 0 | 1 | 2 | 3 => rfl

@[simp] theorem Block.cell_ofFn (f : (r c : Fin 4) → Byte) (r c : Fin 4) : (Block.ofFn f).cell r c = f r c := by
  rw [Block.cell, Block.col_ofFn, Word.get_ofFn]

@[simp] theorem Block.cell_map (f : Byte → Byte) (x : Block) (r c : Fin 4) :
    (x.map f).cell r c = f (x.cell r c) := by
  rw [Block.cell, show x.map f = x.mapColumns (Word.map f) from rfl, Block.col_mapColumns, Word.get_map, Block.cell]

@[simp] theorem Block.cell_xor (x y : Block) (r c : Fin 4) :
    (x.xor y).cell r c = x.cell r c ^^^ y.cell r c := by
  rw [Block.cell, Block.col_xor, Word.get_xor, Block.cell, Block.cell]

/-- Column-major order: cell `(r, c)` stands at linear index `4 c + r`. -/
theorem Block.toList_eq_map_range {x : Block} {f : Nat → Byte}
    (h : ∀ r c : Fin 4, x.cell r c = f (4 * c.val + r.val)) : x.toList = (List.range 16).map f := by
  calc x.toList = (List.finRange 4).flatMap fun c => (List.finRange 4).map fun r => x.cell r c := rfl
    _ = (List.finRange 4).flatMap fun c => (List.finRange 4).map fun r => f (4 * c.val + r.val) := by simp only [h]
    _ = (List.range 16).map f := rfl

theorem Block.getD_toList (x : Block) (r c : Fin 4) : x.toList.getD (4 * c.val + r.val) 0 = x.cell r c := by
  match c, r with
  | 0, 0 | 0, 1 | 0, 2 | 0, 3 | 1, 0 | 1, 1 | 1, 2 | 1, 3 => rfl
  | 2, 0 | 2, 1 | 2, 2 | 2, 3 | 3, 0 | 3, 1 | 3, 2 | 3, 3 => rfl

/-- A block is its sixteen cells. -/
theorem Block.ext_cell {x y : Block} (h : ∀ r c, x.cell r c = y.cell r c) : x = y := by
  refine Block.toList_inj.1 ?_
  rw [Block.toList_eq_map_range (f := (y.toList.getD · 0)) fun r c => (h r c).trans (y.getD_toList r c).symm]
  exact (Block.toList_eq_map_range fun r c => (y.getD_toList r c).symm).symm

end Sys2Proof
end

section
/-! The round transformations cell by cell, and the matrices of the column mixing (43_round_transformations.md
R181-R188, R192): a matrix acts linearly, two matrices after each other act as their product, and both matrices are
circulant. -/

namespace Sys2Proof.Machine

/-! ## Byte substitution and row rotation -/

@[simp] theorem cell_subBytes (x : Block) (r c : Fin 4) : (subBytes x).cell r c = subByte (x.cell r c) :=
  x.cell_map subByte r c

@[simp] theorem cell_invSubBytes (x : Block) (r c : Fin 4) : (invSubBytes x).cell r c = invSubByte (x.cell r c) :=
  x.cell_map invSubByte r c

@[simp] theorem cell_shiftRows (x : Block) (r c : Fin 4) : (shiftRows x).cell r c = x.cell r (c + r) :=
  Block.cell_ofFn ..

@[simp] theorem cell_invShiftRows (x : Block) (r c : Fin 4) : (invShiftRows x).cell r c = x.cell r (c - r) :=
  Block.cell_ofFn ..

/-- R183: `4 ((c + r) mod 4) + r` is 5 times `4 c + r`, modulo 16. -/
theorem shiftRows_toList (x : Block) :
    (shiftRows x).toList = (List.range 16).map fun i => x.toList.getD (5 * i % 16) 0 := by
  refine Block.toList_eq_map_range fun r c => ?_
  have hindex : 5 * (4 * c.val + r.val) % 16 = 4 * (c + r).val + r.val := by rw [Fin.val_add]; omega
  rw [cell_shiftRows, hindex, Block.getD_toList]

/-- R184: `4 ((c - r) mod 4) + r` is 13 times `4 c + r`, modulo 16. -/
theorem invShiftRows_toList (x : Block) :
    (invShiftRows x).toList = (List.range 16).map fun i => x.toList.getD (13 * i % 16) 0 := by
  refine Block.toList_eq_map_range fun r c => ?_
  have hindex : 13 * (4 * c.val + r.val) % 16 = 4 * (c - r).val + r.val := by rw [Fin.val_sub]; omega
  rw [cell_invShiftRows, hindex, Block.getD_toList]

/-! ## A matrix times a column -/

theorem get_mulMatrix (m : Block) (x : Word) (r : Fin 4) : (mulMatrix m x).get r = dotColumn (m.col r) x := by
  match r with
  | 0 | 1 | 2 | 3 => rfl

theorem dotColumn_xor (m x y : Word) : dotColumn m (x.xor y) = dotColumn m x ^^^ dotColumn m y := by
  simp only [dotColumn, Word.xor, gfMul_xor]
  ac_rfl

theorem mulMatrix_xor (m : Block) (x y : Word) : mulMatrix m (x.xor y) = (mulMatrix m x).xor (mulMatrix m y) := by
  simp only [mulMatrix, dotColumn_xor]
  rfl

/-- A row times a matrix: entry `j` is the row times column `j` of the matrix. -/
def rowTimes (v : Word) (n : Block) : Word := Word.ofFn fun j => dotColumn v (Word.ofFn fun i => n.cell j i)

/-- The product of two matrices, each listed by rows. -/
def matrixProduct (m n : Block) : Block := m.mapColumns (rowTimes · n)

def identityMatrix : Block := ⟨⟨1, 0, 0, 0⟩, ⟨0, 1, 0, 0⟩, ⟨0, 0, 1, 0⟩, ⟨0, 0, 0, 1⟩⟩

theorem dotColumn_mulMatrix (v : Word) (n : Block) (x : Word) :
    dotColumn v (mulMatrix n x) = dotColumn (rowTimes v n) x := by
  simp only [dotColumn, mulMatrix, rowTimes, Word.ofFn, Block.cell, Block.col, Word.get, gfMul_xor, xor_gfMul,
    gfMul_assoc]
  ac_rfl

theorem mulMatrix_mulMatrix (m n : Block) (x : Word) :
    mulMatrix m (mulMatrix n x) = mulMatrix (matrixProduct m n) x := by
  rw [mulMatrix, dotColumn_mulMatrix, dotColumn_mulMatrix, dotColumn_mulMatrix, dotColumn_mulMatrix]
  rfl

theorem mulMatrix_identityMatrix (x : Word) : mulMatrix identityMatrix x = x := by
  simp only [mulMatrix, identityMatrix, dotColumn, one_gfMul, zero_gfMul]
  simp

theorem invMixMatrix_mixMatrix : matrixProduct invMixMatrix mixMatrix = identityMatrix := by decide +kernel

theorem mixMatrix_invMixMatrix : matrixProduct mixMatrix invMixMatrix = identityMatrix := by decide +kernel

theorem invMixColumn_mixColumn (x : Word) : invMixColumn (mixColumn x) = x := by
  rw [invMixColumn, mixColumn, mulMatrix_mulMatrix, invMixMatrix_mixMatrix, mulMatrix_identityMatrix]

theorem mixColumn_invMixColumn (x : Word) : mixColumn (invMixColumn x) = x := by
  rw [invMixColumn, mixColumn, mulMatrix_mulMatrix, mixMatrix_invMixMatrix, mulMatrix_identityMatrix]

/-! ## Circulant matrices -/

/-- The matrix whose row `r` is `m` rotated right by `r` places (R192). -/
def circulant (m : Word) : Block := Block.ofFn fun j r => m.get (j - r)

theorem mixColumn_eq_circulant : mixColumn = mulMatrix (circulant ⟨2, 3, 1, 1⟩) := rfl

theorem invMixColumn_eq_circulant : invMixColumn = mulMatrix (circulant ⟨0x0e, 0x0b, 0x0d, 0x09⟩) := rfl

/-- Row `r` rotated left again: `m` times the column read from byte `r` on. -/
theorem dotColumn_circulant (m x : Word) (r : Fin 4) :
    dotColumn ((circulant m).col r) x = gfMul m.b0 (x.get r) ^^^ gfMul m.b1 (x.get (r + 1)) ^^^
      gfMul m.b2 (x.get (r + 2)) ^^^ gfMul m.b3 (x.get (r + 3)) := by
  match r with
  | 0 => rfl
  | 1 | 2 | 3 =>
    simp only [dotColumn, circulant, Block.ofFn, Block.col, Word.ofFn, Fin.reduceSub, Fin.reduceAdd, Word.get]
    ac_rfl

theorem circulantByte_toList (m0 m1 m2 m3 : Byte) (x : Block) (r c : Fin 4) :
    circulantByte m0 m1 m2 m3 x.toList (4 * c.val + r.val) =
      gfMul m0 (x.cell r c) ^^^ gfMul m1 (x.cell (r + 1) c) ^^^ gfMul m2 (x.cell (r + 2) c) ^^^
        gfMul m3 (x.cell (r + 3) c) := by
  have hread (j : Fin 4) :
      x.toList.getD (4 * ((4 * c.val + r.val) / 4) + (4 * c.val + r.val + j.val) % 4) 0 = x.cell (r + j) c := by
    rw [← Block.getD_toList, Fin.val_add]
    congr 1
    omega
  have h0 := hread 0
  rw [add_zero] at h0
  simp only [circulantByte, fieldProduct_eq_gfMul]
  rw [← h0, ← hread 1, ← hread 2, ← hread 3]
  rfl

theorem mapColumns_circulant_toList (m : Word) (x : Block) :
    (x.mapColumns (mulMatrix (circulant m))).toList =
      (List.range 16).map (circulantByte m.b0 m.b1 m.b2 m.b3 x.toList) := by
  refine Block.toList_eq_map_range fun r c => ?_
  rw [circulantByte_toList, Block.cell, Block.col_mapColumns, get_mulMatrix, dotColumn_circulant]
  rfl

theorem mixColumns_toList (x : Block) :
    (mixColumns x).toList = (List.range 16).map (circulantByte 2 3 1 1 x.toList) := by
  rw [mixColumns, mixColumn_eq_circulant, mapColumns_circulant_toList]

theorem invMixColumns_toList (x : Block) :
    (invMixColumns x).toList = (List.range 16).map (circulantByte 0x0e 0x0b 0x0d 0x09 x.toList) := by
  rw [invMixColumns, invMixColumn_eq_circulant, mapColumns_circulant_toList]

end Sys2Proof.Machine
end

section
/-! The laws of the round transformations and the seven commands that expose them (43_round_transformations.md
R180-R190). -/

namespace Sys2Proof.Machine

/-! ## Laws (R190) -/

@[simp] theorem invSubBytes_subBytes (x : Block) : invSubBytes (subBytes x) = x := Block.ext_cell fun r c => by simp

@[simp] theorem subBytes_invSubBytes (x : Block) : subBytes (invSubBytes x) = x := Block.ext_cell fun r c => by simp

@[simp] theorem invShiftRows_shiftRows (x : Block) : invShiftRows (shiftRows x) = x := Block.ext_cell fun r c => by simp

@[simp] theorem shiftRows_invShiftRows (x : Block) : shiftRows (invShiftRows x) = x := Block.ext_cell fun r c => by simp

@[simp] theorem invMixColumns_mixColumns (x : Block) : invMixColumns (mixColumns x) = x := by
  simp only [invMixColumns, mixColumns, Block.mapColumns, invMixColumn_mixColumn]

@[simp] theorem mixColumns_invMixColumns (x : Block) : mixColumns (invMixColumns x) = x := by
  simp only [invMixColumns, mixColumns, Block.mapColumns, mixColumn_invMixColumn]

@[simp] theorem addRoundKey_addRoundKey (x k : Block) : addRoundKey (addRoundKey x k) k = x :=
  Block.xor_xor_cancel x k

theorem subBytes_shiftRows (x : Block) : subBytes (shiftRows x) = shiftRows (subBytes x) :=
  Block.ext_cell fun r c => by simp

theorem invSubBytes_invShiftRows (x : Block) : invSubBytes (invShiftRows x) = invShiftRows (invSubBytes x) :=
  Block.ext_cell fun r c => by simp

theorem shiftRows_xor (x y : Block) : shiftRows (x.xor y) = (shiftRows x).xor (shiftRows y) :=
  Block.ext_cell fun r c => by simp

theorem invShiftRows_xor (x y : Block) : invShiftRows (x.xor y) = (invShiftRows x).xor (invShiftRows y) :=
  Block.ext_cell fun r c => by simp

theorem mixColumns_xor (x y : Block) : mixColumns (x.xor y) = (mixColumns x).xor (mixColumns y) := by
  simp only [mixColumns, mixColumn, Block.mapColumns, Block.xor, mulMatrix_xor]

theorem invMixColumns_xor (x y : Block) : invMixColumns (x.xor y) = (invMixColumns x).xor (invMixColumns y) := by
  simp only [invMixColumns, invMixColumn, Block.mapColumns, Block.xor, mulMatrix_xor]

/-- Settles O39, one lemma for each law; SubBytes of the zero state is 0x63 in every byte, and that is not the XOR of
it with itself. -/
theorem roundTransformationLaws : Obligations.RoundTransformationLaws :=
  ⟨fun x => ⟨invSubBytes_subBytes x, subBytes_invSubBytes x⟩,
    fun x => ⟨invShiftRows_shiftRows x, shiftRows_invShiftRows x⟩,
    fun x => ⟨invMixColumns_mixColumns x, mixColumns_invMixColumns x⟩,
    addRoundKey_addRoundKey,
    fun x => ⟨subBytes_shiftRows x, invSubBytes_invShiftRows x⟩,
    fun x y => ⟨mixColumns_xor x y, invMixColumns_xor x y, shiftRows_xor x y, invShiftRows_xor x y⟩,
    Block.zero, Block.zero, by decide⟩

/-! ## The commands (R180) -/

/-- The transformation leaves its result in `S` and answers it. -/
theorem transform_eq (s : State) (a : List Byte) (t : Block → Block) :
    s.transform a t =
      { s with
        sreg := Block.ofList (t (Block.ofList a)).toList
        out := s.out ++ [.response (responseFrame .ok (t (Block.ofList a)).toList)] } := rfl

/-- R180: the seven commands differ only in the bytes of the transformed state. -/
theorem commandMeaning_of_transform {o : Op} (ho : ¬ (o = .encrypt ∨ o = .decrypt)) (hlenA : lenA o = 16)
    {t : List Byte → Block → Block} {result : List Byte → List Byte → List Byte}
    (hbody : ∀ s a b, bodyOf (.build o false a b) s = s.transform a (t b))
    (hresult : ∀ x b, b.length = lenB o → (t b x).toList = result x.toList b) :
    CommandMeaning (.build o false) o.code 16 (lenB o) (lenErrorA o).code (lenErrorB o).code result
      (resultInS result) := by
  rw [← hlenA]
  refine commandMeaning_of_body ho fun s a b ha hb => ?_
  rw [hbody, transform_eq, hresult _ b hb, Block.toList_ofList a (ha.trans hlenA)]
  rfl

/-- Settles O20: the bytes of the mapped block are the mapped bytes. -/
theorem subbytesMeaning : Obligations.SubbytesMeaning :=
  commandMeaning_of_transform (o := .subbytes) (by decide) rfl (fun _ _ _ => rfl) fun _ _ _ => rfl

/-- Settles O21: the same with the inverse table. -/
theorem invsubbytesMeaning : Obligations.InvsubbytesMeaning :=
  commandMeaning_of_transform (o := .invsubbytes) (by decide) rfl (fun _ _ _ => rfl) fun _ _ _ => rfl

/-- Settles O22: the rotation of the rows as a permutation of the linear indices. -/
theorem shiftrowsMeaning : Obligations.ShiftrowsMeaning :=
  commandMeaning_of_transform (o := .shiftrows) (by decide) rfl (fun _ _ _ => rfl) fun x _ _ => shiftRows_toList x

/-- Settles O23: the inverse rotation as a permutation of the linear indices. -/
theorem invshiftrowsMeaning : Obligations.InvshiftrowsMeaning :=
  commandMeaning_of_transform (o := .invshiftrows) (by decide) rfl (fun _ _ _ => rfl) fun x _ _ =>
    invShiftRows_toList x

/-- Settles O24: the matrix of MixColumn is circulant. -/
theorem mixcolumnsMeaning : Obligations.MixcolumnsMeaning :=
  commandMeaning_of_transform (o := .mixcolumns) (by decide) rfl (fun _ _ _ => rfl) fun x _ _ => mixColumns_toList x

/-- Settles O25: the matrix of InvMixColumn is circulant. -/
theorem invmixcolumnsMeaning : Obligations.InvmixcolumnsMeaning :=
  commandMeaning_of_transform (o := .invmixcolumns) (by decide) rfl (fun _ _ _ => rfl) fun x _ _ =>
    invMixColumns_toList x

theorem addRoundKey_toList (x k : Block) :
    (addRoundKey x k).toList = List.zipWith (· ^^^ ·) x.toList k.toList := rfl

/-- Settles O26: the round key is the block of operand `B`. -/
theorem addroundkeyMeaning : Obligations.AddroundkeyMeaning :=
  commandMeaning_of_transform (o := .addroundkey) (t := fun b x => addRoundKey x (Block.ofList b)) (by decide) rfl
    (fun _ _ _ => rfl) fun x b hb => by
      rw [addRoundKey_toList, Block.toList_ofList b hb]

end Sys2Proof.Machine
end

section
/-! The big-step description of a frame (44_block_cipher.md R222, R225, R229, R241): its observer events, its response
and the number of its steps, by what the frame decodes to. -/

namespace Sys2Proof.Machine

/-! ## Valid cipher commands -/

/-- R90: a valid cipher command is one whose operands pass the checks. -/
theorem validCipher_iff (i : Instr) :
    ValidCipher i ↔ (i.op = .encrypt ∨ i.op = .decrypt) ∧ checkLengths i.op i.opA i.opB = none := by
  rw [ValidCipher, checkLengths_eq_none_iff]
  refine and_congr_right fun hop => ?_
  rcases hop with hop | hop <;> rw [hop] <;> rfl

/-- The state after stage `n` of a cipher command (R222, R225). -/
def stageState (i : Instr) (n : Nat) : Block :=
  cipherState i.op (Block.ofList i.opA) (expandKey (Key.ofList i.opB)) n

theorem stageOf_stateBeforeStage (op : Op) (x : Block) (rk : RoundKeys) (n : Nat) :
    stageOf op n (stateBeforeStage op x rk n) rk = cipherState op x rk n := by
  by_cases hop : op = .encrypt <;>
    cases n <;> simp only [stageOf, cipherState, stateBeforeStage, hop, if_true, if_false] <;> rfl

theorem commandResult_of_cipher {i : Instr} (hop : i.op = .encrypt ∨ i.op = .decrypt) :
    commandResult i = (stageState i 14).toList := by
  cases i with
  | encrypt | decrypt => rfl
  | _ => simp [Instr.op] at hop

/-- R241: the observer bit alone decides, as only the cipher commands carry one. -/
theorem commandEvents_eq (i : Instr) : commandEvents i = if i.obs then eventFrames (stageState i) else [] := by
  cases i with
  | encrypt obs | decrypt obs => cases obs <;> rfl
  | _ => rfl

/-! ## Events, response and steps of a frame -/

section
variable {f : Frame} {i : Instr}

theorem frameComplete_of_decode_ok (hd : decode f = .ok i) : frameComplete f = true := by
  by_contra hbad
  have hmalformed := (decode_malformed_iff f).2 (by simpa using hbad)
  simp [hd] at hmalformed

theorem frameEvents_of_valid (hd : decode f = .ok i) (hi : ValidCipher i) :
    frameEvents f = if i.obs then eventFrames (stageState i) else [] := by
  simp only [frameEvents, hd, ((validCipher_iff i).1 hi).2, commandEvents_eq]

theorem frameResponse_of_valid (hd : decode f = .ok i) (hi : ValidCipher i) :
    frameResponse f = responseFrame .ok (stageState i 14).toList := by
  obtain ⟨hop, hlen⟩ := (validCipher_iff i).1 hi
  simp only [frameResponse, hd, hlen, commandResult_of_cipher hop]

theorem frameOutput_of_illegal (hd : decode f = .error .illegalCommand) :
    frameOutput f = [.response (responseFrame (.error .illegalCommand) [])] := by
  simp only [frameOutput, frameEvents, frameResponse, hd, List.map_nil, List.nil_append]

theorem frameOutput_of_lengthError {e : CommandError} (hd : decode f = .ok i)
    (he : checkLengths i.op i.opA i.opB = some e) : frameOutput f = [.response (responseFrame (.error e) [])] := by
  simp only [frameOutput, frameEvents, frameResponse, hd, he, List.map_nil, List.nil_append]

/-- R228: a SIMPLE command has no events. -/
theorem frameOutput_of_simple (hd : decode f = .ok i) (hop : ¬ (i.op = .encrypt ∨ i.op = .decrypt))
    (he : checkLengths i.op i.opA i.opB = none) :
    frameOutput f = [.response (responseFrame .ok (commandResult i))] := by
  have hobs : ¬ i.obs = true := fun h => hop (Instr.op_of_obs h)
  simp only [frameOutput, frameEvents, frameResponse, hd, he, commandEvents_eq, if_neg hobs, List.map_nil,
    List.nil_append]

theorem frameSteps_of_valid (hd : decode f = .ok i) (hi : ValidCipher i) : frameSteps f = 16 := by
  simp only [frameSteps, hd]
  exact if_pos hi

theorem frameSteps_of_not_valid (h : ∀ i, decode f = .ok i → ¬ ValidCipher i) : frameSteps f = 1 := by
  cases hd : decode f with
  | error => simp only [frameSteps, hd]
  | ok i =>
    simp only [frameSteps, hd]
    exact if_neg (h i hd)

/-! ## The events of the first stages -/

/-- The events of the stages before stage `k`, in order, when the observer was requested (R240, R241). -/
def stageOutputs (i : Instr) (k : Nat) : List Output :=
  if i.obs then (List.range k).map fun n => .event (eventFrame n (stageState i n).toList) else []

theorem stageOutputs_zero (i : Instr) : stageOutputs i 0 = [] := by
  simp [stageOutputs]

theorem stageOutputs_succ (i : Instr) (k : Nat) :
    stageOutputs i (k + 1) =
      stageOutputs i k ++ if i.obs then [.event (eventFrame k (stageState i k).toList)] else [] := by
  cases hobs : i.obs <;> simp [stageOutputs, hobs, List.range_succ]

theorem take_frameEvents_of_valid (hd : decode f = .ok i) (hi : ValidCipher i) {k : Nat} (hk : k ≤ 15) :
    ((frameEvents f).take k).map .event = stageOutputs i k := by
  rw [frameEvents_of_valid hd hi, stageOutputs]
  cases i.obs
  · simp
  · simp [eventFrames, ← List.map_take, List.take_range, Nat.min_eq_left hk, Function.comp_def]

theorem frameOutput_of_valid (hd : decode f = .ok i) (hi : ValidCipher i) :
    frameOutput f = stageOutputs i 15 ++ [.response (responseFrame .ok (stageState i 14).toList)] := by
  have hall : (frameEvents f).take 15 = frameEvents f := by
    refine List.take_of_length_le ?_
    rw [frameEvents_of_valid hd hi]
    split <;> simp [eventFrames]
  rw [frameOutput, frameResponse_of_valid hd hi, ← take_frameEvents_of_valid hd hi (Nat.le_refl 15), hall]

end

/-- Settles O42: the observer bit decides between 15 events and none, and event 14 carries the last state. -/
theorem fifteenEventsOrNone : Obligations.FifteenEventsOrNone := by
  intro f i hd
  refine ⟨fun ⟨hi, hobs⟩ => ?_, fun hnot => ?_⟩
  · rw [frameEvents_of_valid hd hi, if_pos hobs, frameResponse_of_valid hd hi]
    exact ⟨rfl, stageState i 14, rfl, rfl⟩
  · cases he : checkLengths i.op i.opA i.opB with
    | some e => simp only [frameEvents, hd, he]
    | none =>
      have hobs : ¬ i.obs = true := fun hobs => hnot ⟨(validCipher_iff i).2 ⟨Instr.op_of_obs hobs, he⟩, hobs⟩
      simp only [frameEvents, hd, he, commandEvents_eq, if_neg hobs]

end Sys2Proof.Machine
end

section
/-! The small steps of the machine against the big-step description (44_block_cipher.md R226-R229, R245): a cipher
command stage by stage, every other frame in its one step. -/

namespace Sys2Proof.Machine

/-! ## The outcomes between two frames and inside a cipher command -/

/-- The core is idle, the frames `taken` of `CMD` are taken, `pending` wait, and `out` is what it has emitted. -/
structure State.Answered (s : State) (taken pending : List Frame) (out : List Output) : Prop where
  phase : s.phase = .idle
  rst : s.rst = none
  cmdTaken : s.cmdTaken = taken
  cmdPending : s.cmdPending = pending
  out : s.out = out

/-- The cipher command `i` is in flight and its next stage is `k`; `before` is what was emitted before it. -/
structure State.AtStage (s : State) (i : Instr) (k : Nat) (taken pending : List Frame) (before : List Output) :
    Prop where
  phase : s.phase = .run
  rst : s.rst = none
  inFlight : s.InFlight i
  rnd : s.rnd.toNat = k
  cmdTaken : s.cmdTaken = taken
  cmdPending : s.cmdPending = pending
  out : s.out = before ++ stageOutputs i k

/-! ## ACCEPT (R226) -/

/-- What a valid cipher command latches is what its stages start from. -/
theorem bodyOf_inFlight {i : Instr} (hi : ValidCipher i) (s : State) : (bodyOf i s).InFlight i := by
  cases i with
  | encrypt | decrypt => exact ⟨hi, rfl, rfl, rfl, sliceRoundKeys_fillWords _ _, Nat.zero_le 14, rfl⟩
  | _ => simp [ValidCipher, Instr.op] at hi

section
variable {s : State} {f : Frame} {rest : List Frame} (hr : s.rst = none) (hp : s.phase = .idle)
  (hc : s.cmdPending = f :: rest)
include hr hp hc

/-- R226: an idle core accepts a valid cipher command. -/
theorem step_accept {i : Instr} (hd : decode f = .ok i) (hi : ValidCipher i) :
    ∃ t, step s = .next t ∧ t.AtStage i 0 (s.cmdTaken ++ [f]) rest s.out := by
  obtain ⟨hop, he⟩ := (validCipher_iff i).1 hi
  obtain ⟨hrnd, -⟩ := bodyOf_cipher hop s.takeFrame
  have htake := State.takeFrame_of_cons s f rest hc
  refine ⟨bodyOf i s.takeFrame, (step_exec hr hp hc hd).trans (exec_idle_ok (by simpa using hp) he), ?_⟩
  exact {
    phase := by simp [hop]
    rst := by simpa using hr
    inFlight := bodyOf_inFlight hi _
    rnd := by simp [hrnd]
    cmdTaken := by simp [htake]
    cmdPending := by simp [htake]
    out := by simp [hop, stageOutputs_zero] }

/-- R228, R262: an idle core answers every other complete frame in one step. -/
theorem step_simple (hcomplete : frameComplete f = true) (hsimple : ∀ i, decode f = .ok i → ¬ ValidCipher i) :
    ∃ t, step s = .next t ∧ t.Answered (s.cmdTaken ++ [f]) rest (s.out ++ frameOutput f) := by
  have htake := State.takeFrame_of_cons s f rest hc
  have hidle : s.takeFrame.phase = .idle := by simpa using hp
  have herror (e : CommandError) (hout : frameOutput f = [.response (responseFrame (.error e) [])]) :
      (s.takeFrame.emitRsp (.error e) []).Answered (s.cmdTaken ++ [f]) rest (s.out ++ frameOutput f) := by
    constructor <;> simp [htake, hr, hp, hout]
  have hwell : ¬ (decode f = .error .shortHeader ∨ decode f = .error .payloadLength) := by
    rw [decode_malformed_iff, hcomplete]
    decide
  cases hd : decode f with
  | error reject =>
    cases reject with
    | illegalCommand =>
      exact ⟨_, (step_illegal hr hp hc hd).trans rfl, herror _ (frameOutput_of_illegal hd)⟩
    | shortHeader => exact absurd (.inl hd) hwell
    | payloadLength => exact absurd (.inr hd) hwell
  | ok i =>
    cases he : checkLengths i.op i.opA i.opB with
    | some e =>
      exact ⟨_, (step_exec hr hp hc hd).trans (exec_idle_error hidle he),
        herror _ (frameOutput_of_lengthError hd he)⟩
    | none =>
      have hop : ¬ (i.op = .encrypt ∨ i.op = .decrypt) := fun hop =>
        hsimple i hd ((validCipher_iff i).2 ⟨hop, he⟩)
      refine ⟨_, (step_exec hr hp hc hd).trans (exec_idle_ok hidle he), ?_⟩
      constructor <;> simp [htake, hr, hp, hop, frameOutput_of_simple hd hop he]

end

/-! ## STAGE (R227) -/

section
variable {s : State} {i : Instr} {k : Nat} {taken pending : List Frame} {before : List Output}

theorem State.AtStage.le (h : s.AtStage i k taken pending before) : k ≤ 14 := by
  obtain ⟨-, -, -, -, -, hn, -⟩ := h.inFlight
  exact h.rnd ▸ hn

theorem State.AtStage.step_eq (h : s.AtStage i k taken pending before) :
    step s = .next ((s.runStage k).endStage k) := by
  have hn := h.le
  rw [← h.rnd] at hn ⊢
  exact (step_stage h.rst h.phase).trans (stage_ok hn)

/-- Stage `k` takes `S` from the big-step state before it to the one after it. -/
theorem State.AtStage.stageOf_eq (h : s.AtStage i k taken pending before) :
    stageOf s.opreg k s.sreg s.rk = stageState i k := by
  obtain ⟨-, hopreg, -, hkeyreg, hrk, -, hsreg⟩ := h.inFlight
  rw [hsreg, hopreg, h.rnd, stageOf_stateBeforeStage, hrk, hkeyreg, stageState]

/-- The transformation and the event of stage `k`. -/
theorem State.AtStage.runStage_out (h : s.AtStage i k taken pending before) :
    (s.runStage k).out = before ++ stageOutputs i (k + 1) := by
  obtain ⟨-, -, hobsen, -⟩ := h.inFlight
  rw [State.runStage_out, h.stageOf_eq, hobsen, h.out, stageOutputs_succ, List.append_assoc]

theorem State.AtStage.step_succ (h : s.AtStage i k taken pending before) (hk : k < 14) :
    ∃ t, step s = .next t ∧ t.AtStage i (k + 1) taken pending before := by
  obtain ⟨hi, hopreg, hobsen, hkeyreg, hrk, -⟩ := h.inFlight
  have hrnd : ((s.runStage k).endStage k).rnd.toNat = k + 1 := by
    simp only [State.endStage_rnd, if_pos hk, BitVec.toNat_ofNat]
    omega
  refine ⟨_, h.step_eq, ?_⟩
  exact {
    phase := by simp [hk, h.phase]
    rst := by simp [h.rst]
    inFlight := by
      have hsreg : ((s.runStage k).endStage k).sreg = stageState i k := by simp [h.stageOf_eq]
      refine ⟨hi, by simpa using hopreg, by simpa using hobsen, by simpa using hkeyreg, by simpa using hrk,
        by omega, ?_⟩
      rw [hsreg, hrnd]
      simp [stageState, stateBeforeStage, hrk, hkeyreg]
    rnd := hrnd
    cmdTaken := by simp [h.cmdTaken]
    cmdPending := by simp [h.cmdPending]
    out := by rw [State.endStage_out, if_pos hk, List.append_nil, h.runStage_out] }

/-- R245: the response comes after event 14. -/
theorem State.AtStage.step_last (h : s.AtStage i 14 taken pending before) :
    ∃ t, step s = .next t ∧ t.Answered taken pending
      (before ++ (stageOutputs i 15 ++ [.response (responseFrame .ok (stageState i 14).toList)])) := by
  refine ⟨_, h.step_eq, ?_⟩
  exact {
    phase := by simp
    rst := by simp [h.rst]
    cmdTaken := by simp [h.cmdTaken]
    cmdPending := by simp [h.cmdPending]
    out := by
      simp only [State.endStage_out, h.runStage_out, State.runStage_sreg, h.stageOf_eq, Nat.lt_irrefl, if_false,
        List.append_assoc] }

end

/-! ## The history invariant (R229, R241, R245; 70_reset_and_hazards.md R302) -/

section
variable {s : State}

theorem State.HistoryAgrees.of_idle (hp : s.phase = .idle) (hout : s.out = s.cmdTaken.flatMap frameOutput) :
    s.HistoryAgrees :=
  ⟨fun _ => hout, fun hrun => by simp [hp] at hrun⟩

/-- The history after one more frame, answered. -/
theorem State.Answered.historyAgrees {before : List Frame} {f : Frame} {pending : List Frame}
    (h : s.Answered (before ++ [f]) pending (before.flatMap frameOutput ++ frameOutput f)) : s.HistoryAgrees :=
  .of_idle h.phase (by simp [h.out, h.cmdTaken])

theorem State.AtStage.historyAgrees {i : Instr} {k : Nat} {before : List Frame} {f : Frame} {pending : List Frame}
    (h : s.AtStage i k (before ++ [f]) pending (before.flatMap frameOutput)) (hd : decode f = .ok i) :
    s.HistoryAgrees := by
  obtain ⟨hi, -⟩ := h.inFlight
  refine ⟨fun hidle => by simp [h.phase] at hidle, fun _ => ⟨before, f, i, h.cmdTaken, hd, h.inFlight, ?_⟩⟩
  rw [h.rnd, take_frameEvents_of_valid hd hi (by have := h.le; omega), h.out]

/-- In flight, the agreement and the launch premise say at which stage of which command the core is. -/
theorem State.HistoryAgrees.atStage (h : s.HistoryAgrees) (hhost : s.HostNeverResetsBusy) (hp : s.phase = .run) :
    ∃ before f i, decode f = .ok i ∧
      s.AtStage i s.rnd.toNat (before ++ [f]) s.cmdPending (before.flatMap frameOutput) := by
  obtain ⟨before, f, i, htaken, hd, hflight, hout⟩ := h.2 hp
  have ⟨hi, _, _, _, _, hn, _⟩ := hflight
  have hrst : s.rst = none := by
    by_contra hr
    have hidle := hhost hr
    simp [hp] at hidle
  rw [take_frameEvents_of_valid hd hi (by omega)] at hout
  exact ⟨before, f, i, hd, hp, hrst, hflight, rfl, htaken, rfl, hout⟩

theorem State.HostNeverResetsBusy.of_rst (hr : s.rst = none) : s.HostNeverResetsBusy :=
  fun hrst => absurd hr hrst

theorem step_run_keeps_historyAgrees {t : State} (hs : s.HistoryAgrees) (hhost : s.HostNeverResetsBusy)
    (hp : s.phase = .run) (h : step s = .next t) : t.HistoryAgrees ∧ t.HostNeverResetsBusy := by
  obtain ⟨before, f, i, hd, hat⟩ := hs.atStage hhost hp
  have ⟨hi, _⟩ := hat.inFlight
  by_cases hk : s.rnd.toNat < 14
  · obtain ⟨u, hu, hat'⟩ := hat.step_succ hk
    obtain rfl := Host.Outcome.next.inj (hu.symm.trans h)
    exact ⟨hat'.historyAgrees hd, .of_rst hat'.rst⟩
  · have hlast : s.rnd.toNat = 14 := Nat.le_antisymm hat.le (Nat.le_of_not_lt hk)
    rw [hlast] at hat
    obtain ⟨u, hu, hans⟩ := hat.step_last
    obtain rfl := Host.Outcome.next.inj (hu.symm.trans h)
    rw [← frameOutput_of_valid hd hi] at hans
    exact ⟨hans.historyAgrees, .of_rst hans.rst⟩

theorem step_frame_keeps_historyAgrees {t : State} {f : Frame} {rest : List Frame} (hs : s.HistoryAgrees)
    (hr : s.rst = none) (hp : s.phase = .idle) (hc : s.cmdPending = f :: rest) (h : step s = .next t) :
    t.HistoryAgrees ∧ t.HostNeverResetsBusy := by
  have hout : s.out = s.cmdTaken.flatMap frameOutput := hs.1 hp
  have hcomplete : frameComplete f = true := by
    by_contra hbad
    rw [step_malformed hr hp hc ((decode_malformed_iff f).2 (by simpa using hbad))] at h
    cases h
  by_cases hcipher : ∃ i, decode f = .ok i ∧ ValidCipher i
  · obtain ⟨i, hd, hi⟩ := hcipher
    obtain ⟨u, hu, hat⟩ := step_accept hr hp hc hd hi
    obtain rfl := Host.Outcome.next.inj (hu.symm.trans h)
    rw [hout] at hat
    exact ⟨hat.historyAgrees hd, .of_rst hat.rst⟩
  · obtain ⟨u, hu, hans⟩ := step_simple hr hp hc hcomplete fun i hd hi => hcipher ⟨i, hd, hi⟩
    obtain rfl := Host.Outcome.next.inj (hu.symm.trans h)
    rw [hout] at hans
    exact ⟨hans.historyAgrees, .of_rst hans.rst⟩

/-- An idle core that acts on reset loses nothing of its history. -/
theorem applyReset_keeps_historyAgrees (hs : s.HistoryAgrees) (hp : s.phase = .idle) : s.applyReset.HistoryAgrees :=
  .of_idle rfl (hs.1 hp)

end

/-- Settles O47: in flight the core goes from stage to stage of the big-step description and then to its answer; idle
it waits, is reset, or answers or accepts the next frame. -/
theorem stepKeepsHistoryAgreement : Obligations.StepKeepsHistoryAgreement := by
  intro s t hs hhost h
  cases hp : s.phase with
  | run => exact step_run_keeps_historyAgrees hs hhost hp h
  | idle =>
    cases hr : s.rst with
    | some m =>
      rw [step_reset hr, resetStep_now fun _ => hp] at h
      cases h
      exact ⟨applyReset_keeps_historyAgrees hs hp, .of_rst rfl⟩
    | none =>
      cases hc : s.cmdPending with
      | nil =>
        rw [step_wait hr hp hc] at h
        cases h
        exact ⟨hs, hhost⟩
      | cons f rest => exact step_frame_keeps_historyAgrees hs hr hp hc h

end Sys2Proof.Machine
end

section
/-! The steps of the cipher commands as the rules give them (44_block_cipher.md R226-R228), and the runs that answer
one frame (R229, R245, R316). -/

namespace Sys2Proof.Machine

/-! ## One step -/

/-- Settles O8: the taken frame is the head of `CMD`. -/
theorem stepRunsTheDecodedCommand : Obligations.StepRunsTheDecodedCommand := by
  intro s f rest i hr hp hc hd
  rw [step_exec hr hp hc hd, State.takeFrame_of_cons s f rest hc]

/-- R226: what ACCEPT writes depends on the command alone. -/
theorem acceptCipher_eq (s : State) (op : Op) (obs : Bool) (a b : List Byte) :
    s.acceptCipher op obs a b =
      { s with
        opreg := op
        obsen := obs
        sreg := Block.ofList a
        keyreg := Key.ofList b
        w := fillWords (Vector.replicate 60 Word.zero) (Key.ofList b)
        rk := expandKey (Key.ofList b)
        rnd := 0
        phase := .run } := by
  simp only [State.acceptCipher, expandInto_eq]

/-- Settles O27: the two length errors in their order, and else the body of the command. -/
theorem cipherAccept : Obligations.CipherAccept := by
  intro s obs a b hp
  refine ⟨fun ha => ⟨?_, ?_⟩, fun ha hb => ⟨?_, ?_⟩, fun ha hb => ?_⟩
  · exact exec_idle_error (i := .encrypt obs a b) hp (checkLengths_wrongA b ha)
  · exact exec_idle_error (i := .decrypt obs a b) hp (checkLengths_wrongA b ha)
  · exact exec_idle_error (i := .encrypt obs a b) hp (checkLengths_wrongB ha hb)
  · exact exec_idle_error (i := .decrypt obs a b) hp (checkLengths_wrongB ha hb)
  · exact ⟨_, exec_idle_ok (i := .encrypt obs a b) hp (checkLengths_ok ha hb),
      exec_idle_ok (i := .decrypt obs a b) hp (checkLengths_ok ha hb), acceptCipher_eq s .encrypt obs a b,
      Block.toList_ofList a ha, Key.toList_ofList b hb⟩

theorem runStage_eq (s : State) (n : Nat) :
    s.runStage n =
      { s with
        sreg := stageOf s.opreg n s.sreg s.rk
        out := s.out ++ if s.obsen then [.event (eventFrame n (stageOf s.opreg n s.sreg s.rk).toList)] else [] } := by
  cases hobs : s.obsen <;> simp [State.runStage, State.emitObs, hobs]

theorem ofNat_toNat_succ {n : BitVec 4} : BitVec.ofNat 4 (n.toNat + 1) = n + 1 := by
  bv_omega

theorem endStage_eq {s : State} {n : Nat} (hp : s.phase = .run) (hn : s.rnd.toNat = n) :
    s.endStage n =
      { s with
        out := s.out ++ if n < 14 then [] else [.response (responseFrame .ok s.sreg.toList)]
        rnd := if n < 14 then s.rnd + 1 else s.rnd
        phase := if n < 14 then .run else .idle } := by
  subst hn
  by_cases hlast : s.rnd.toNat < 14
  · simp only [State.endStage, if_pos hlast, ofNat_toNat_succ, List.append_nil, ← hp]
  · simp only [State.endStage, State.emitRsp, if_neg hlast]

/-- Settles O28: the two halves of the STAGE step, one after the other. -/
theorem stageStep : Obligations.StageStep := by
  intro s hr hp hn
  rw [step_stage hr hp, stage_ok hn, endStage_eq (by simpa using hp) (by simp), runStage_eq]
  rfl

/-! ## Runs (70_reset_and_hazards.md R316) -/

theorem run_add {m : Nat} (n : Nat) {s t : State} (h : Host.Core.run core m s = .next t) :
    Host.Core.run core (m + n) s = Host.Core.run core n t := by
  induction m generalizing s with
  | zero => cases h; rw [Nat.zero_add]
  | succ m ih =>
    obtain ⟨u, hstep, hrest⟩ := run_succ_next h
    rw [Nat.add_right_comm, run_succ _ hstep, ih hrest]

theorem run_one {s t : State} (h : step s = .next t) : Host.Core.run core 1 s = .next t :=
  run_succ 0 h

theorem run_snoc {n : Nat} {s t u : State} (h : Host.Core.run core n s = .next t) (hstep : step t = .next u) :
    Host.Core.run core (n + 1) s = .next u :=
  (run_add 1 h).trans (run_one hstep)

section
variable {s : State} {f : Frame} {rest : List Frame} (hr : s.rst = none) (hp : s.phase = .idle)
  (hc : s.cmdPending = f :: rest)
include hr hp hc

/-- The ACCEPT step and `k` STAGE steps bring a valid cipher command to stage `k`. -/
theorem run_to_stage {i : Instr} (hd : decode f = .ok i) (hi : ValidCipher i) {k : Nat} (hk : k ≤ 14) :
    ∃ t, Host.Core.run core (k + 1) s = .next t ∧ t.AtStage i k (s.cmdTaken ++ [f]) rest s.out := by
  induction k with
  | zero =>
    obtain ⟨t, hstep, hat⟩ := step_accept hr hp hc hd hi
    exact ⟨t, run_one hstep, hat⟩
  | succ k ih =>
    obtain ⟨t, hrun, hat⟩ := ih (by omega)
    obtain ⟨u, hstep, hat'⟩ := hat.step_succ (by omega)
    exact ⟨u, run_snoc hrun hstep, hat'⟩

/-- R229: every complete frame is answered with its big-step output. -/
theorem run_frame (hcomplete : frameComplete f = true) :
    ∃ t, Host.Core.run core (frameSteps f) s = .next t ∧
      t.Answered (s.cmdTaken ++ [f]) rest (s.out ++ frameOutput f) := by
  by_cases hcipher : ∃ i, decode f = .ok i ∧ ValidCipher i
  · obtain ⟨i, hd, hi⟩ := hcipher
    obtain ⟨t, hrun, hat⟩ := run_to_stage hr hp hc hd hi (Nat.le_refl 14)
    obtain ⟨u, hstep, hans⟩ := hat.step_last
    rw [frameSteps_of_valid hd hi, frameOutput_of_valid hd hi]
    exact ⟨u, run_snoc hrun hstep, hans⟩
  · have hsimple : ∀ i, decode f = .ok i → ¬ ValidCipher i := fun i hd hi => hcipher ⟨i, hd, hi⟩
    obtain ⟨t, hstep, hans⟩ := step_simple hr hp hc hcomplete hsimple
    rw [frameSteps_of_not_valid hsimple]
    exact ⟨t, run_one hstep, hans⟩

end

/-- The outputs of one more frame, on their two channels. -/
theorem State.Answered.out_append {s t : State} {f : Frame} {taken pending : List Frame}
    (h : t.Answered taken pending (s.out ++ frameOutput f)) :
    t.out = s.out ++ (frameEvents f).map .event ++ [frameResponse f].map .response := by
  rw [h.out, frameOutput, List.append_assoc, List.map_singleton]

/-- Settles O43: the run of one frame, its output seen on each channel. -/
theorem everyFrameIsAnsweredAsTheBigStepSays : Obligations.EveryFrameIsAnsweredAsTheBigStepSays := by
  intro s f rest hr hp hc hcomplete
  obtain ⟨t, hrun, hans⟩ := run_frame hr hp hc hcomplete
  have hout := hans.out_append
  exact ⟨t, hrun, hans.phase, hans.rst, hans.cmdTaken, hans.cmdPending, hout, rsp_of_out_append hout,
    obs_of_out_append hout⟩

/-- Settles O44: the run to each stage, and the last stage. -/
theorem eventsComeBeforeTheResponse : Obligations.EventsComeBeforeTheResponse := by
  intro s f rest i hr hp hc hd hi
  refine ⟨fun k hk => ?_, ?_⟩
  · obtain ⟨t, hrun, hat⟩ := run_to_stage hr hp hc hd hi hk
    exact ⟨t, hrun, hat.inFlight, hat.phase, hat.rnd, hat.cmdPending, hat.out⟩
  · obtain ⟨t, hrun, hat⟩ := run_to_stage hr hp hc hd hi (Nat.le_refl 14)
    obtain ⟨u, hstep, hans⟩ := hat.step_last
    exact ⟨u, run_snoc hrun hstep, hans.phase, hans.cmdPending, hans.out.trans (List.append_assoc ..).symm⟩

end Sys2Proof.Machine
end

section
/-! The cipher undone by its inverse (44_block_cipher.md R243, R244), and so on the machine. Both directions go back
through the middle of the rounds: a decryption stage undoes what stands between the middles of two encryption rounds,
and the other way round. -/

namespace Sys2Proof.Machine

/-! ## The stages -/

theorem encStage_zero (x : Block) (rk : RoundKeys) : encStage 0 x rk = addRoundKey x (roundKey rk 0) := rfl

theorem encStage_last (x : Block) (rk : RoundKeys) :
    encStage 14 x rk = addRoundKey (shiftRows (subBytes x)) (roundKey rk 14) := rfl

theorem encStage_round {n : Nat} (hn : n < 13) (x : Block) (rk : RoundKeys) :
    encStage (n + 1) x rk = addRoundKey (mixColumns (shiftRows (subBytes x))) (roundKey rk (n + 1)) := by
  rw [encStage, if_neg (by omega), if_neg (by omega)]

theorem decStage_zero (x : Block) (rk : RoundKeys) : decStage 0 x rk = addRoundKey x (roundKey rk 14) := rfl

theorem decStage_last (x : Block) (rk : RoundKeys) :
    decStage 14 x rk = addRoundKey (invSubBytes (invShiftRows x)) (roundKey rk 0) := rfl

theorem decStage_round {n : Nat} (hn : n < 13) (x : Block) (rk : RoundKeys) :
    decStage (n + 1) x rk = invMixColumns (addRoundKey (invSubBytes (invShiftRows x)) (roundKey rk (13 - n))) := by
  rw [decStage, if_neg (by omega), if_neg (by omega), show 14 - (n + 1) = 13 - n by omega]

/-! ## The states of one direction in the other (R243) -/

/-- R243: decryption event `j` shows the middle of encryption round `14 - j`. -/
theorem decState_encState (p : Block) (rk : RoundKeys) {j : Nat} (hj : j ≤ 13) :
    decState (encState p rk 14) rk j = shiftRows (subBytes (encState p rk (13 - j))) := by
  induction j with
  | zero => rw [decState, decStage_zero, encState, encStage_last, addRoundKey_addRoundKey]
  | succ j ih =>
    have hround : 13 - j = (12 - j) + 1 := by omega
    rw [decState, ih (by omega), decStage_round (by omega), invShiftRows_shiftRows, invSubBytes_subBytes, hround,
      encState, encStage_round (by omega), addRoundKey_addRoundKey, invMixColumns_mixColumns,
      show 13 - (j + 1) = 12 - j by omega]

/-- The same with the directions exchanged. -/
theorem encState_decState (c : Block) (rk : RoundKeys) {j : Nat} (hj : j ≤ 13) :
    encState (decState c rk 14) rk j = invSubBytes (invShiftRows (decState c rk (13 - j))) := by
  induction j with
  | zero => rw [encState, encStage_zero, decState, decStage_last, addRoundKey_addRoundKey]
  | succ j ih =>
    have hround : 13 - j = (12 - j) + 1 := by omega
    rw [encState, ih (by omega), encStage_round (by omega), subBytes_invSubBytes, shiftRows_invShiftRows, hround,
      decState, decStage_round (by omega), mixColumns_invMixColumns, show 13 - (12 - j) = j + 1 by omega,
      addRoundKey_addRoundKey, show 13 - (j + 1) = 12 - j by omega]

theorem decState_encState_last (p : Block) (rk : RoundKeys) : decState (encState p rk 14) rk 14 = p := by
  rw [decState, decState_encState p rk (Nat.le_refl 13), decStage_last, invShiftRows_shiftRows, invSubBytes_subBytes,
    encState, encStage_zero, addRoundKey_addRoundKey]

theorem encState_decState_last (c : Block) (rk : RoundKeys) : encState (decState c rk 14) rk 14 = c := by
  rw [encState, encState_decState c rk (Nat.le_refl 13), encStage_last, subBytes_invSubBytes, shiftRows_invShiftRows,
    decState, decStage_zero, addRoundKey_addRoundKey]

/-- Settles O40: the last states, for the round keys of any key. -/
theorem cipherRoundTrip : Obligations.CipherRoundTrip := fun x k =>
  ⟨decState_encState_last x (expandKey k), encState_decState_last x (expandKey k)⟩

/-- Settles O41: the relation of the states; with block and key all 0, event 7 of the decryption is not event 7 of
the encryption. -/
theorem eventRelations : Obligations.EventRelations :=
  ⟨fun p k =>
      ⟨decState_encState_last p (expandKey k), fun _ hj => decState_encState p (expandKey k) hj, rfl, rfl⟩,
    Block.zero, Key.zero, 7, by decide, by decide +kernel⟩

/-! ## On the machine -/

/-- A valid cipher command is answered in 16 steps with its result. -/
theorem run_valid_cipher {s : State} {i : Instr} {rest : List Frame} (hr : s.rst = none) (hp : s.phase = .idle)
    (hc : s.cmdPending = encode i :: rest) (hi : ValidCipher i) :
    ∃ t, Host.Core.run core 16 s = .next t ∧ t.rst = none ∧ t.phase = .idle ∧ t.cmdPending = rest ∧
      t.rsp = s.rsp ++ [responseFrame .ok (commandResult i)] := by
  have ⟨hop, ha, hb⟩ := hi
  have hd : decode (encode i) = .ok i := decodeOfEncodeIsTheCommand i ⟨by omega, by omega⟩
  obtain ⟨t, hrun, hans⟩ := run_frame hr hp hc (frameComplete_of_decode_ok hd)
  rw [frameSteps_of_valid hd hi] at hrun
  refine ⟨t, hrun, hans.rst, hans.phase, hans.cmdPending, ?_⟩
  rw [rsp_of_out_append hans.out_append, frameResponse_of_valid hd hi, commandResult_of_cipher hop]

/-- Settles O46: 16 steps for each frame, and the round trip. -/
theorem machineDecryptsWhatItEncrypts : Obligations.MachineDecryptsWhatItEncrypts := by
  intro s o o' a b rest ha hb c hr hp hc
  obtain ⟨t, hrun, hr', hp', hc', hrsp⟩ := run_valid_cipher hr hp hc ⟨.inl rfl, ha, hb⟩
  obtain ⟨u, hrun', -, hp'', hc'', hrsp'⟩ := run_valid_cipher hr' hp' hc' ⟨.inr rfl, c.toList_length, hb⟩
  refine ⟨u, (run_add 16 hrun).trans hrun', hp'', hc'', ?_⟩
  have hplain : commandResult (.decrypt o' c.toList b) = a := by
    rw [commandResult, Block.ofList_toList, (cipherRoundTrip _ _).1, Block.toList_ofList a ha]
  rw [hrsp', hrsp, hplain, List.append_assoc, responseFrame, responseFrame, ha]
  rfl

end Sys2Proof.Machine
end

section
/-! The statements of the family 60_exceptions.md about the step of a core and of a system: the answer to an illegal
frame (R265), the idle core that waits (R284), and instances that do not interact (R282). -/

namespace Sys2Proof.Machine

/-- Settles O11: the waiting case of the step. -/
theorem idleCoreWaits : Obligations.IdleCoreWaits := fun _ => step_wait

/-- Settles O9: each of R87's three reasons makes the frame illegal, and `raise` appends the response and nothing
else. -/
theorem stepAnswersIllegalCommand : Obligations.StepAnswersIllegalCommand := by
  intro s op flags blen klen payload rest hr hp hlen hc hreason
  have hillegal := (illegalEncodingsExactly op flags blen klen payload hlen).2 hreason
  rw [step_illegal hr hp hc hillegal, State.takeFrame_of_cons s _ _ hc]
  rfl

/-! ## Instances (R282) -/

/-- The next state of instance `k`, where there is such an instance and its step answers one. -/
def System.nextOf (sys : System) (k : Nat) : Option State :=
  sys[k]?.bind fun s =>
    match step s with
    | .next t => some t
    | .fault _ => none
    | .refused _ => none

/-- A step of instance `k` reads that instance and replaces it. -/
theorem System.stepAt_eq_map_set (sys : System) (k : Nat) : sys.stepAt k = (sys.nextOf k).map (sys.set k) := by
  cases hs : sys[k]? with
  | none => simp [System.stepAt, System.nextOf, hs]
  | some s => cases ht : step s <;> simp [System.stepAt, System.nextOf, hs, ht]

theorem System.nextOf_set_of_ne (sys : System) {j k : Nat} (hne : j ≠ k) (t : State) :
    System.nextOf (sys.set j t) k = sys.nextOf k := by
  rw [System.nextOf, List.getElem?_set_ne hne, System.nextOf]

theorem System.stepAt_getElem?_of_ne {sys sys' : System} {j k : Nat} (hne : j ≠ k) (h : sys.stepAt j = some sys') :
    sys'[k]? = sys[k]? := by
  rw [System.stepAt_eq_map_set, Option.map_eq_some_iff] at h
  obtain ⟨t, -, rfl⟩ := h
  exact List.getElem?_set_ne hne

/-- Two steps of different instances replace two states, each read from the system before both. -/
theorem System.stepAt_bind_stepAt (sys : System) {j k : Nat} (hne : j ≠ k) :
    (sys.stepAt j).bind (·.stepAt k) =
      (sys.nextOf j).bind fun t => (sys.nextOf k).map fun u => (sys.set j t).set k u := by
  simp only [System.stepAt_eq_map_set, Option.bind_map, Function.comp_def, System.nextOf_set_of_ne sys hne]

/-- Settles O57: replacements at two different places commute. -/
theorem instancesAreIndependent : Obligations.InstancesAreIndependent := by
  intro sys j k hne
  refine ⟨?_, fun sys' => System.stepAt_getElem?_of_ne hne⟩
  rw [System.stepAt_bind_stepAt sys hne, System.stepAt_bind_stepAt sys hne.symm]
  cases sys.nextOf j with
  | none => cases sys.nextOf k <;> rfl
  | some t =>
    cases sys.nextOf k with
    | none => rfl
    | some u => exact congrArg some (List.set_comm t u hne)

end Sys2Proof.Machine
end

section
/-! The statements of the family 70_reset_and_hazards.md: what the reset input does (R300, R302), the frames that wait
(R311), and the run that answers a whole queue (R316, R317). -/

namespace Sys2Proof.Machine

/-! ## Reset (R300, R302) -/

theorem Phase.eq_idle_of_ne_run {p : Phase} (h : p ≠ .run) : p = .idle := by
  cases p with
  | idle => rfl
  | run => exact absurd rfl h

/-- Settles O12: reset acts on the core as it stands or, in flight at the moment `afterEvent`, on the core after the
event of its stage. -/
theorem resetAbandonsAndAltersNoChannel : Obligations.ResetAbandonsAndAltersNoChannel := by
  intro s m hr hstage
  by_cases hevent : m = .afterEvent ∧ s.phase = .run
  · obtain ⟨rfl, hp⟩ := hevent
    exact ⟨_, (step_reset hr).trans (resetStep_afterEvent hp (hstage rfl hp)), rfl, rfl, rfl, by simp, by simp, by simp,
      by simp [hp, eventFrame]⟩
  · have hnow (hm : m = .afterEvent) : s.phase = .idle := Phase.eq_idle_of_ne_run fun hp => hevent ⟨hm, hp⟩
    refine ⟨_, (step_reset hr).trans (resetStep_now hnow), rfl, rfl, rfl, rfl, rfl, rfl, ?_⟩
    rw [if_neg fun ⟨hm, hp, _⟩ => hevent ⟨hm, hp⟩, List.append_nil, State.applyReset_out]

/-- Reset at stage `k` of a cipher command: the event of stage `k` is out when reset acts after it. -/
theorem State.AtStage.step_hostReset {s : State} {i : Instr} {k : Nat} {taken pending : List Frame}
    {before : List Output} (h : s.AtStage i k taken pending before) (m : ResetMoment) :
    ∃ u, step (s.hostReset m) = .next u ∧ u.rnd = 0 ∧ u.Answered taken pending
      (before ++ stageOutputs i (if m = .afterEvent then k + 1 else k)) := by
  obtain ⟨-, -, hobsen, -⟩ := h.inFlight
  obtain ⟨u, hstep, hp, hrnd, hr, htaken, hpending, -, hout⟩ :=
    resetAbandonsAndAltersNoChannel (s.hostReset m) m rfl fun _ _ => by simpa [h.rnd] using h.le
  refine ⟨u, hstep, hrnd, hp, hr, htaken.trans h.cmdTaken, hpending.trans h.cmdPending, ?_⟩
  rw [hout]
  cases m with
  | beforeStep => simp [h.out]
  | afterEvent => simp [h.out, h.phase, h.rnd, h.stageOf_eq, hobsen, stageOutputs_succ, eventFrame]

/-- Settles O58: the run to stage `k`, and the reset there. -/
theorem resetInFlightLeavesZeroToFifteenEvents : Obligations.ResetInFlightLeavesZeroToFifteenEvents := by
  intro s f rest i k m hr hp hc hd hi hk
  obtain ⟨t, hrun, hat⟩ := run_to_stage hr hp hc hd hi hk
  obtain ⟨u, hstep, hrnd, hans⟩ := hat.step_hostReset m
  have hcount : (if m = .afterEvent then k + 1 else k) ≤ 15 := by split <;> omega
  have hout := hans.out
  rw [← take_frameEvents_of_valid hd hi hcount] at hout
  have hrsp : u.rsp = s.rsp ++ [] := rsp_of_out_append (hout.trans (List.append_nil _).symm)
  exact ⟨t, u, hrun, hat.phase, hstep, hans.phase, hrnd, hans.cmdTaken, hans.cmdPending,
    hrsp.trans (List.append_nil _), hout⟩

/-! ## Frames that wait (R311) -/

/-- Settles O14: only the step of an idle core takes a frame, and every command looks at `PHASE` first. -/
theorem framesWaitWhileRunning : Obligations.FramesWaitWhileRunning := by
  intro s hp
  refine ⟨fun t h => ?_, fun i => (exec_eq_command i s).trans (command_run hp ..)⟩
  rcases step_next_cases h with ⟨m, -, -, rfl⟩ | ⟨-, -, -, rfl⟩ | ⟨-, -, -, rfl⟩ | ⟨-, -, -, rfl⟩ | ⟨-, hidle, -⟩
  iterate 4 simp
  rw [hp] at hidle
  cases hidle

/-! ## Queues (R316, R317) -/

theorem frameSteps_le (f : Frame) : frameSteps f ≤ 16 := by
  by_cases hcipher : ∃ i, decode f = .ok i ∧ ValidCipher i
  · obtain ⟨i, hd, hi⟩ := hcipher
    exact (frameSteps_of_valid hd hi).le
  · rw [frameSteps_of_not_valid fun i hd hi => hcipher ⟨i, hd, hi⟩]
    decide

theorem sum_frameSteps_le (frames : List Frame) : (frames.map frameSteps).sum ≤ 16 * frames.length := by
  have h := List.sum_le_card_nsmul (frames.map frameSteps) 16
    (List.forall_mem_map.2 fun f _ => frameSteps_le f)
  rwa [List.length_map, smul_eq_mul, Nat.mul_comm] at h

/-- An idle core answers the frames of its queue one after the other, each in its own number of steps. -/
theorem run_queue {frames : List Frame} {s : State} (hr : s.rst = none) (hp : s.phase = .idle)
    (hc : s.cmdPending = frames) (hcomplete : ∀ f ∈ frames, frameComplete f = true) :
    ∃ t, Host.Core.run core (frames.map frameSteps).sum s = .next t ∧
      t.Answered (s.cmdTaken ++ frames) [] (s.out ++ frames.flatMap frameOutput) := by
  induction frames generalizing s with
  | nil => exact ⟨s, rfl, hp, hr, by simp, hc, by simp⟩
  | cons f rest ih =>
    obtain ⟨hf, hrest⟩ := List.forall_mem_cons.1 hcomplete
    obtain ⟨t, hrun, ht⟩ := run_frame hr hp hc hf
    obtain ⟨u, hrun', hu⟩ := ih ht.rst ht.phase ht.cmdPending hrest
    rw [ht.cmdTaken, ht.out, List.append_assoc, List.append_assoc] at hu
    exact ⟨u, (run_add _ hrun).trans hrun', hu⟩

theorem filterMap_onRsp_frameOutput (f : Frame) : (frameOutput f).filterMap Output.onRsp = [frameResponse f] := by
  simp [frameOutput, List.filterMap_map, Function.comp_def, Output.onRsp]

theorem filterMap_onObs_frameOutput (f : Frame) : (frameOutput f).filterMap Output.onObs = frameEvents f := by
  simp [frameOutput, List.filterMap_map, Function.comp_def, Output.onObs]

/-- Settles O45: the run of the queue, its output seen on each channel. -/
theorem everyQueueIsAnsweredInOrder : Obligations.EveryQueueIsAnsweredInOrder := by
  intro s hr hp hcomplete
  obtain ⟨t, hrun, hans⟩ := run_queue hr hp rfl hcomplete
  refine ⟨_, t, sum_frameSteps_le s.cmdPending, hrun, hans.phase, hans.cmdPending, hans.cmdTaken, hans.out, ?_, ?_⟩
  · simp only [State.rsp, hans.out, List.filterMap_append, List.filterMap_flatMap, filterMap_onRsp_frameOutput,
      ← List.map_eq_flatMap]
  · simp only [State.obs, hans.out, List.filterMap_append, List.filterMap_flatMap, filterMap_onObs_frameOutput]

end Sys2Proof.Machine
end
